-- ==== Sys2Proof/Word.lean ====
section
/-! DEFINITION. The two word types of the block: the 32-bit register or address word (10 R25, 20 R50) and the
byte of FBMEM and SRCMEM (20 R50). Everything that works on their bits stands in Decode.lean and under Machine/. -/

namespace Sys2Proof

/-- A 32-bit register value, command word or memory address. -/
abbrev Word := BitVec 32

/-- One byte of FBMEM or SRCMEM; the pixel of the smallest column is bit 7 (20 R54). -/
abbrev Byte := BitVec 8

end Sys2Proof
end

