-- ==== Sys2Proof/Config.lean ====
section
/-! DEFINITION. What a platform fixes (00 R10) and the free values. The platform's parameters are plain data that State
carries and no step changes, so every statement over all states holds for every value of them. The free values have no
body: nothing can be proved about which value they are (log entry 1). -/

namespace Sys2Proof

/-- What GET_PIXEL returns for a negative coordinate (00 R10, 40 R102). -/
inductive NegRead where
  /-- The value 0. -/
  | harden
  /-- A free draw in {0, 1}. -/
  | draw
  deriving DecidableEq, Repr

/-- A range of a memory: the bytes `base .. base + size - 1`. -/
structure Range where
  base : Nat
  size : Nat
  deriving DecidableEq, Repr

/-- The parameters of 00 R10. `src_read` is the State's SRCMEM on the readable ranges. -/
structure Platform where
  /-- ENGINE_BASE divided by 64: the base is 64-byte aligned by construction. -/
  engineBlock : BitVec 26
  negRead : NegRead
  /-- The maximal backed, writable ranges of FBMEM, which give `fb_mapped`. -/
  fbBacked : List Range
  /-- The readable ranges of SRCMEM: where `src_read` gives a byte. -/
  srcReadable : List Range
  deriving DecidableEq, Repr

namespace Config

/-- A free value: the `n`-th bit drawn, by a negative GET_PIXEL under NEG_READ = draw (40 R102). -/
opaque freeBit : Nat → BitVec 1

/-- A free value: the `n`-th byte drawn, by a read of the running command's region (70 R256, R257) or a reset while
busy (70 R252). -/
opaque freeByte : Nat → Byte

end Config

end Sys2Proof
end

