-- ==== Sys2Proof/Syntax.lean ====
section
/-! DEFINITION. The ten commands of the block, one constructor per row of spec/opcode_table.json, with the fields of
the command word each row uses (30 R71, R72). Operands are not part of the word: they come from the latch (30 R70). -/

namespace Sys2Proof

/-- A draw mode (00 R14). `noOp` names every value that is not Black, White or Invert; its code is 3 (30 R73). -/
inductive Mode where
  | black
  | white
  | invert
  | noOp
  deriving DecidableEq, Repr

/-- The direction of SHIFT (30 R75). -/
inductive Dir where
  | up
  | down
  | left
  | right
  deriving DecidableEq, Repr

/-- A command. `fe` is the fill enable and `fm` the fill mode, which is kept, and ignored, when `fe` is false (30 R74). -/
inductive Instr where
  /-- OP 0x0, 40 R101. -/
  | setPixel (m : Mode)
  /-- OP 0x1, 40 R102. -/
  | getPixel
  /-- OP 0x2, 40 R103. -/
  | fill (m : Mode)
  /-- OP 0x3, 41 R121. -/
  | drawRow (m : Mode)
  /-- OP 0x4, 41 R124. -/
  | drawColumn (m : Mode)
  /-- OP 0x5, 42 R141. -/
  | drawLine (m : Mode)
  /-- OP 0x6, 43 R170. -/
  | drawRect (m : Mode) (fe : Bool) (fm : Mode)
  /-- OP 0x7, 42 R145. -/
  | drawCircle (m : Mode) (fe : Bool) (fm : Mode)
  /-- OP 0x8, 44 R181. -/
  | shift (dir : Dir)
  /-- OP 0x9, 45 R202. -/
  | bitmap
  deriving DecidableEq, Repr

end Sys2Proof
end

