-- ==== Sys2Proof/WellFormed.lean ====
section
/-! DEFINITION. Which command words are legal, by the first sentence of 30 R76: OP is 0x0 to 0x9 and every bit outside
the fields the opcode uses (30 R72) is 0. It is written field by field from R71 and R72; Decode.lean is written from
the mask and match table, and an obligation says that the two agree.

Every term of `Instr` is well formed: each field type holds exactly the values its bits can take, all of them legal
(30 R73, R74, R75). So the checks are on words, one definition each. -/

namespace Sys2Proof.WellFormed

/-- OP is one of the ten operations (30 R72). -/
def opAssigned (v : Word) : Bool := v.toNat % 16 < 10

/-- The opcodes whose row of 30 R72 uses the field M. -/
def usesMode (op : Nat) : Bool := [0, 2, 3, 4, 5, 6, 7].contains op

/-- The opcodes whose row of 30 R72 uses the fields FE and FM. -/
def usesFill (op : Nat) : Bool := [6, 7].contains op

/-- The opcode whose row of 30 R72 uses the field DIR. -/
def usesDir (op : Nat) : Bool := [8].contains op

/-- M, bits [5:4], is 0 unless the opcode uses it. -/
def modeAllowed (v : Word) : Bool := usesMode (v.toNat % 16) || v.extractLsb' 4 2 == 0#2

/-- FE, bit [6], and FM, bits [9:8], are 0 unless the opcode uses them (30 R74). -/
def fillAllowed (v : Word) : Bool :=
  usesFill (v.toNat % 16) || (v.extractLsb' 6 1 == 0#1 && v.extractLsb' 8 2 == 0#2)

/-- DIR, bits [13:12], is 0 unless the opcode uses it (30 R75). -/
def dirAllowed (v : Word) : Bool := usesDir (v.toNat % 16) || v.extractLsb' 12 2 == 0#2

/-- The reserved bits [7], [11:10] and [31:14] of 30 R71 are 0. -/
def reservedZero (v : Word) : Bool :=
  v.extractLsb' 7 1 == 0#1 && v.extractLsb' 10 2 == 0#2 && v.extractLsb' 14 18 == 0#18

/-- A legal command word (30 R76). -/
def legal (v : Word) : Bool :=
  opAssigned v && modeAllowed v && fillAllowed v && dirAllowed v && reservedZero v

end Sys2Proof.WellFormed
end

