-- ==== Sys2Proof/Decode.lean ====
section
/-! DEFINITION. The decoder of command words, written from the mask and match table of 30 R76 and the field codes of
30 R73 to R75, total on all 32-bit words and refusing by name (30 R77); after it the encoder, written from the
field layout of 30 R71. A command word is a 32-bit register value, so no byte order enters (20 R56). -/

namespace Sys2Proof

/-- Why a command word is illegal (30 R77). -/
inductive DecodeError where
  /-- OP is 0xA to 0xF. -/
  | reservedOpcode
  /-- OP is assigned, and a bit outside the fields it uses is 1. -/
  | mustBeZero
  deriving DecidableEq, Repr

/-- Draw mode codes: 0 Black, 1 White, 2 Invert, 3 NoOp (30 R73). -/
def Mode.ofCode (c : BitVec 2) : Mode :=
  match c.toNat with
  | 0 => .black
  | 1 => .white
  | 2 => .invert
  | _ => .noOp

/-- The code of a draw mode (30 R73). -/
def Mode.code : Mode → BitVec 2
  | .black => 0#2
  | .white => 1#2
  | .invert => 2#2
  | .noOp => 3#2

/-- Direction codes: 0 Up, 1 Down, 2 Left, 3 Right (30 R75). -/
def Dir.ofCode (c : BitVec 2) : Dir :=
  match c.toNat with
  | 0 => .up
  | 1 => .down
  | 2 => .left
  | _ => .right

/-- The code of a direction (30 R75). -/
def Dir.code : Dir → BitVec 2
  | .up => 0#2
  | .down => 1#2
  | .left => 2#2
  | .right => 3#2

/-- The field M, bits [5:4] (30 R71). -/
def modeField (v : Word) : Mode := Mode.ofCode (v.extractLsb' 4 2)

/-- The field FE, bit [6] (30 R71). -/
def fillEnableField (v : Word) : Bool := v.getLsbD 6

/-- The field FM, bits [9:8] (30 R71). -/
def fillModeField (v : Word) : Mode := Mode.ofCode (v.extractLsb' 8 2)

/-- The field DIR, bits [13:12] (30 R71). -/
def dirField (v : Word) : Dir := Dir.ofCode (v.extractLsb' 12 2)

/-- One row of the table of 30 R76: a word `v` is the row's command when `v` masked is `bits`. -/
structure Row where
  mnemonic : String
  bits : Word
  mask : Word
  build : Word → Instr

/-- The table of 30 R76, row by row. -/
def rows : List Row := [
  ⟨"SET_PIXEL",   0x00000000#32, 0xFFFFFFCF#32, fun v => .setPixel (modeField v)⟩,
  ⟨"GET_PIXEL",   0x00000001#32, 0xFFFFFFFF#32, fun _ => .getPixel⟩,
  ⟨"FILL",        0x00000002#32, 0xFFFFFFCF#32, fun v => .fill (modeField v)⟩,
  ⟨"DRAW_ROW",    0x00000003#32, 0xFFFFFFCF#32, fun v => .drawRow (modeField v)⟩,
  ⟨"DRAW_COLUMN", 0x00000004#32, 0xFFFFFFCF#32, fun v => .drawColumn (modeField v)⟩,
  ⟨"DRAW_LINE",   0x00000005#32, 0xFFFFFFCF#32, fun v => .drawLine (modeField v)⟩,
  ⟨"DRAW_RECT",   0x00000006#32, 0xFFFFFC8F#32,
    fun v => .drawRect (modeField v) (fillEnableField v) (fillModeField v)⟩,
  ⟨"DRAW_CIRCLE", 0x00000007#32, 0xFFFFFC8F#32,
    fun v => .drawCircle (modeField v) (fillEnableField v) (fillModeField v)⟩,
  ⟨"SHIFT",       0x00000008#32, 0xFFFFCFFF#32, fun v => .shift (dirField v)⟩,
  ⟨"BITMAP",      0x00000009#32, 0xFFFFFFFF#32, fun _ => .bitmap⟩]

/-- A word is the command of this row. -/
def Row.accepts (r : Row) (v : Word) : Bool := v &&& r.mask == r.bits

/-- The command a word encodes, or the reason it is illegal (30 R76, R77). -/
def decode (v : Word) : Except DecodeError Instr :=
  match rows.find? (fun r => r.accepts v) with
  | some r => .ok (r.build v)
  | none => .error (if v.toNat % 16 < 10 then .mustBeZero else .reservedOpcode)

/-- A command word from its fields, bit 31 first: `000000000000000000 DD 00 FF 0 E MM OOOO` (30 R71). -/
def packWord (op : BitVec 4) (m : BitVec 2) (fe : Bool) (fm dir : BitVec 2) : Word :=
  0#18 ++ dir ++ 0#2 ++ fm ++ 0#1 ++ BitVec.ofBool fe ++ m ++ op

/-- The command word of a command; a field its opcode does not use is 0 (30 R72, R76). -/
def encode : Instr → Word
  | .setPixel m => packWord 0#4 m.code false 0#2 0#2
  | .getPixel => packWord 1#4 0#2 false 0#2 0#2
  | .fill m => packWord 2#4 m.code false 0#2 0#2
  | .drawRow m => packWord 3#4 m.code false 0#2 0#2
  | .drawColumn m => packWord 4#4 m.code false 0#2 0#2
  | .drawLine m => packWord 5#4 m.code false 0#2 0#2
  | .drawRect m fe fm => packWord 6#4 m.code fe fm.code 0#2
  | .drawCircle m fe fm => packWord 7#4 m.code fe fm.code 0#2
  | .shift dir => packWord 8#4 0#2 false 0#2 dir.code
  | .bitmap => packWord 9#4 0#2 false 0#2 0#2

/-- The opcode of a command (30 R72). -/
def opcode : Instr → Nat
  | .setPixel _ => 0
  | .getPixel => 1
  | .fill _ => 2
  | .drawRow _ => 3
  | .drawColumn _ => 4
  | .drawLine _ => 5
  | .drawRect _ _ _ => 6
  | .drawCircle _ _ _ => 7
  | .shift _ => 8
  | .bitmap => 9

/-- The decoder on an instruction of the opcode table: the table gives every row 32 bits, one command word. -/
def decodeTableWord (_nbits w : Nat) : Option Instr :=
  if w < 2 ^ 32 then
    match decode (BitVec.ofNat 32 w) with
    | .ok i => some i
    | .error _ => none
  else none

end Sys2Proof
end

