-- ==== Sys2Proof/Machine/State.lean ====
section
/-! DEFINITION. The state of the block and of its surroundings, as plain data (10 R38, 70 R262), the reasons a step can
stop, and the state after reset. -/

namespace Sys2Proof.Machine

/-- The model faults of 60 R223. Each ends the run: the fault mark of the spec is this outcome (log entry 6). All three
are safe: the model stops where the document calls the behaviour undefined. -/
inductive Fault where
  /-- Raised by the engine at the start of a step, and by a reset while busy, when the region is not backed or reaches
  2^32 (20 R52, 70 R252). Safe. -/
  | fbUnmapped
  /-- Raised by the engine in a BITMAP step when a source byte is unreadable or its address reaches 2^32 (20 R53). Safe. -/
  | srcUnreadable
  /-- Raised by a host byte write into the running command's region while BUSY = 1 (70 R257). Safe. -/
  | hostRace
  deriving DecidableEq, Repr

/-- The refusals of 60 R224, and the two the model adds. The spec's refusal mark is this outcome (log entry 6). All are
safe: the model stops where a real bus might go on. -/
inductive Refusal where
  /-- Raised by an arm of `exec` that has no meaning yet. No arm is left so. Safe. -/
  | notModelled (mnemonic : String)
  /-- Raised by a host register access whose offset is not a multiple of 4 (20 R56). Safe. -/
  | regMisaligned
  /-- Raised by a host register access that is not 32 bits wide (20 R56). Safe. -/
  | regWidth
  /-- Raised by a host register access outside the 64-byte window, which is not an access to this block (log entry 8).
  Safe. -/
  | outsideWindow
  /-- Raised by a host FBMEM access that is not one byte (20 R57). Safe. -/
  | fbWidth
  deriving DecidableEq, Repr

/-- The registers of the window (10 R25), the reserved offsets together (10 R34). -/
inductive Reg where
  | cmd
  | arg0
  | arg1
  | arg2
  | result
  | status
  | fbBase
  | fbWidth
  | fbHeight
  | fbStride
  | reserved
  deriving DecidableEq, Repr

/-- What happens to the block from outside, in the order in which it is to happen (70 R262). Widths are in bits. -/
inductive Input where
  /-- A host register read. -/
  | regRead (addr : Word) (bits : Nat)
  /-- A host register write of `v`. -/
  | regWrite (addr : Word) (bits : Nat) (v : Word)
  /-- The host's loop "read STATUS until STATUS.BUSY = 0" (30 R84). -/
  | wait
  /-- A host read of FBMEM. -/
  | fbRead (addr : Word) (bits : Nat)
  /-- A host write of FBMEM; a byte write stores the low byte of `v`. -/
  | fbWrite (addr : Word) (bits : Nat) (v : Word)
  /-- A byte read of FBMEM by the scanout reader (70 R256). -/
  | scanRead (addr : Word)
  /-- The platform resets the block (70 R250). -/
  | reset
  deriving DecidableEq, Repr

/-- A value a host read returned (70 R262). -/
inductive ReadValue where
  | reg (v : Word)
  | byte (v : Byte)
  deriving DecidableEq, Repr

/-- Who moves, while both the engine and the outside could (20 R63, 95 P4). -/
inductive Mover where
  | outside
  | engine
  deriving DecidableEq, Repr

/-- Memory contents: cells in strictly rising address order. -/
abbrev Mem := List Host.Cell

/-- The command latch ACT (10 R35); ACT.S is computed from `w`. Its contents mean something only while BUSY = 1. -/
structure Latch where
  /-- ACT.op, ACT.m, ACT.fe, ACT.fm and ACT.dir. -/
  cmd : Instr
  a0 : Word
  a1 : Word
  a2 : Word
  base : Word
  w : BitVec 15
  h : BitVec 15
  deriving DecidableEq, Repr

/-- The geometry an engine step works with, as exact integers (00 R12). -/
structure Geom where
  base : Nat
  w : Nat
  h : Nat
  deriving DecidableEq, Repr

/-- One per-pixel operation `plot(x, y, mode)` (40 R100). -/
structure Plot where
  x : Int
  y : Int
  mode : Mode
  deriving DecidableEq, Repr

/-- The complete state (10 R38) and, below `platform`, the run's surroundings (70 R262). -/
structure State where
  /-- ARG0, ARG1, ARG2 (10 R27). -/
  arg0 : Word
  arg1 : Word
  arg2 : Word
  /-- RESULT[0]; RESULT[31:1] is always 0 (10 R28). -/
  result : BitVec 1
  /-- STATUS.BUSY, STATUS.ILLEGAL, STATUS.OVERRUN (10 R29). -/
  busy : Bool
  illegal : Bool
  overrun : Bool
  /-- FB_BASE, FB_WIDTH[14:0], FB_HEIGHT[14:0] (10 R30 to R32). -/
  fbBase : Word
  fbWidth : BitVec 15
  fbHeight : BitVec 15
  /-- The command latch (10 R35). -/
  act : Latch
  /-- FBMEM; an unlisted byte reads 0x00 (log entry 4). -/
  fbmem : Mem
  /-- SRCMEM; an unlisted byte of a readable range reads 0x00 (log entry 4). -/
  srcmem : Mem
  /-- The platform's parameters (00 R10). -/
  platform : Platform
  /-- What the outside has still to do. -/
  inputs : List Input
  /-- Who moves next while BUSY = 1; when it is empty the engine does. -/
  turns : List Mover
  /-- The values the host's reads returned, oldest first. -/
  reads : List ReadValue
  /-- The bytes the scanout reader's reads returned, oldest first. -/
  scanned : List Byte
  /-- How many free values have been drawn (log entry 1). -/
  draws : Nat
  deriving DecidableEq, Repr

/-- The latch after reset: it holds no command, which BUSY = 0 says; its unreadable contents are all zero
(70 R250, log entry 3). -/
def Latch.empty : Latch where
  cmd := .setPixel .black
  a0 := 0#32
  a1 := 0#32
  a2 := 0#32
  base := 0#32
  w := 0#15
  h := 0#15

/-- The platform of `State.reset`: the spec leaves every parameter open, and memory is there at every address
(00 R10, log entry 5). -/
def Platform.atReset : Platform where
  engineBlock := 0#26
  negRead := .draw
  fbBacked := [⟨0, 2 ^ 32⟩]
  srcReadable := [⟨0, 2 ^ 32⟩]

/-- The machine right after reset (70 R250), with nothing placed in memory and no host program. -/
def State.reset : State where
  arg0 := 0#32
  arg1 := 0#32
  arg2 := 0#32
  result := 0#1
  busy := false
  illegal := false
  overrun := false
  fbBase := 0#32
  fbWidth := 0#15
  fbHeight := 0#15
  act := Latch.empty
  fbmem := []
  srcmem := []
  platform := Platform.atReset
  inputs := []
  turns := []
  reads := []
  scanned := []
  draws := 0

end Sys2Proof.Machine
end

