-- ==== Sys2Proof/Machine/Flags.lean ====
section
/-! DEFINITION. The STATUS register (10 R29): its value, and every way one of its flags changes (10 R37). The block has
no other flags or condition codes, and no drawing operation writes one besides BUSY. -/

namespace Sys2Proof.Machine

/-- The value a read of STATUS returns: BUSY, ILLEGAL and OVERRUN in bits 0, 1, 2, and bits [31:3] zero (10 R29). -/
def State.statusWord (s : State) : Word :=
  0#29 ++ BitVec.ofBool s.overrun ++ BitVec.ofBool s.illegal ++ BitVec.ofBool s.busy

/-- A command word was rejected as illegal (60 R221). -/
def State.setIllegal (s : State) : State := { s with illegal := true }

/-- A register write was dropped because BUSY was 1 (60 R222). -/
def State.setOverrun (s : State) : State := { s with overrun := true }

/-- A write of `v` to STATUS: bit 1 clears ILLEGAL, bit 2 clears OVERRUN, every other bit is ignored (10 R29). -/
def State.ackStatus (s : State) (v : Word) : State :=
  { s with illegal := s.illegal && !v.getLsbD 1, overrun := s.overrun && !v.getLsbD 2 }

/-- The end of an engine step: BUSY becomes 0 (30 R78). -/
def State.finish (s : State) : State := { s with busy := false }

end Sys2Proof.Machine
end

