-- ==== Sys2Proof/Machine/Operands.lean ====
section
/-! DEFINITION. Operand assembly from the latched ARG words (30 R79, R80), and the sign and zero extensions of 00 R12.
Every operand is an exact integer from here on (log entry 15). -/

namespace Sys2Proof.Machine

/-- `sext_16` of bits `[lo + 15 : lo]` of a word: the integer whose two's-complement encoding they are (00 R12). -/
def sext16 (v : Word) (lo : Nat) : Int := (v.extractLsb' lo 16).toInt

/-- `zext_16` of bits `[lo + 15 : lo]` of a word (00 R12). -/
def zext16 (v : Word) (lo : Nat) : Nat := (v.extractLsb' lo 16).toNat

/-- `zext_8` of bits `[lo + 7 : lo]` of a word (00 R12). -/
def zext8 (v : Word) (lo : Nat) : Nat := (v.extractLsb' lo 8).toNat

/-- H0 = ARG0[15:0] as a coordinate. -/
def Latch.coord0 (a : Latch) : Int := sext16 a.a0 0

/-- H1 = ARG0[31:16] as a coordinate. -/
def Latch.coord1 (a : Latch) : Int := sext16 a.a0 16

/-- H2 = ARG1[15:0] as a coordinate. -/
def Latch.coord2 (a : Latch) : Int := sext16 a.a1 0

/-- H3 = ARG1[31:16] as a coordinate. -/
def Latch.coord3 (a : Latch) : Int := sext16 a.a1 16

/-- H0 = ARG0[15:0] as a size: SHIFT's distance. -/
def Latch.size0 (a : Latch) : Nat := zext16 a.a0 0

/-- H2 = ARG1[15:0] as a size: DRAW_RECT's w, DRAW_CIRCLE's radius, BITMAP's offset. -/
def Latch.size2 (a : Latch) : Nat := zext16 a.a1 0

/-- H3 = ARG1[31:16] as a size: DRAW_RECT's h. -/
def Latch.size3 (a : Latch) : Nat := zext16 a.a1 16

/-- BITMAP's width operand, ARG1[23:16] (30 R80). -/
def Latch.bitmapWidth (a : Latch) : Nat := zext8 a.a1 16

/-- BITMAP's height operand, ARG1[31:24] (30 R80). -/
def Latch.bitmapHeight (a : Latch) : Nat := zext8 a.a1 24

/-- BITMAP's source address, ARG2 (30 R80). -/
def Latch.source (a : Latch) : Nat := a.a2.toNat

/-- The fill operand: `none` when FE = 0, and then FM is ignored; the fill mode when FE = 1 (00 R15, 30 R74). -/
def fillOperand (fe : Bool) (fm : Mode) : Option Mode := if fe then some fm else none

/-- The geometry ACT.base, ACT.W, ACT.H (10 R35). -/
def Latch.geom (a : Latch) : Geom where
  base := a.base.toNat
  w := a.w.toNat
  h := a.h.toNat

end Sys2Proof.Machine
end

