-- ==== Sys2Proof/Machine/Ops.lean ====
section
/-! DEFINITION. The named operations on memory, on the framebuffer and on the state that the meanings share.

There is no operation that takes an exception and none that returns from one: the block raises no exception, enters no
trap and has no trap return (60 R220, R226, R227). Its model faults are outcomes of a step (60 R223). -/

namespace Sys2Proof.Machine

/-! ### Memory -/

/-- The byte listed at an address. -/
def Mem.find : Mem → Nat → Option Byte
  | [], _ => none
  | (b, v) :: t, a => if a = b then some v else Mem.find t a

/-- A memory read: an unlisted byte reads 0x00 (log entry 4). -/
def Mem.read (m : Mem) (a : Nat) : Byte := (Mem.find m a).getD 0#8

/-- The cell to put in front of `t` for the value `v` at `a`: none when `v` is what an unlisted byte reads as. -/
def Mem.cons (a : Nat) (v : Byte) (t : Mem) : Mem := if v = 0#8 then t else (a, v) :: t

/-- A memory write, keeping the canonical form. -/
def Mem.write : Mem → Nat → Byte → Mem
  | [], a, v => Mem.cons a v []
  | (b, w) :: t, a, v =>
    if a < b then Mem.cons a v ((b, w) :: t)
    else if a = b then Mem.cons a v t
    else (b, w) :: Mem.write t a v

/-- Addresses strictly rising, each at least `lo` and below 2^32. -/
def Mem.risingFrom : Nat → Mem → Bool
  | _, [] => true
  | lo, (a, _) :: t => decide (lo ≤ a) && decide (a < 2 ^ 32) && Mem.risingFrom (a + 1) t

/-- The canonical form: 32-bit addresses, strictly rising, and no cell equal to what an unlisted byte reads as. -/
def Mem.wf (m : Mem) : Bool := Mem.risingFrom 0 m && m.all fun c => c.2 != 0#8

/-- Write `f i` at `base + i` for every `i < n`. -/
def Mem.writeRange (base : Nat) (f : Nat → Byte) : Nat → Mem → Mem
  | 0, m => m
  | n + 1, m => Mem.write (Mem.writeRange base f n m) (base + n) (f n)

/-! ### Framebuffer geometry and pixels -/

/-- `S = ceil(W / 8)` (10 R20). -/
def Geom.stride (g : Geom) : Nat := (g.w + 7) / 8

/-- `S * H`, the number of bytes of the region (10 R20). -/
def Geom.bytes (g : Geom) : Nat := g.stride * g.h

/-- `idx(x, y) = y * S + x // 8` (10 R21). -/
def Geom.index (g : Geom) (x y : Nat) : Nat := y * g.stride + x / 8

/-- `bitmask(x) = 0x80 >> (x mod 8)` (10 R21). -/
def bitmask (x : Nat) : Byte := 0x80#8 >>> (x % 8)

/-- The point is a pixel: inside `[0, W) x [0, H)` (40 R100). -/
def Geom.contains (g : Geom) (x y : Int) : Bool :=
  decide (0 ≤ x) && decide (0 ≤ y) && decide (x < g.w) && decide (y < g.h)

/-- The address is in the region `[base, base + S * H)` (00 section 5). -/
def Geom.inRegion (g : Geom) (a : Nat) : Bool := decide (g.base ≤ a) && decide (a < g.base + g.bytes)

/-- The byte `fb[i]` (00 R13). -/
def Geom.byteAt (g : Geom) (m : Mem) (i : Nat) : Byte := Mem.read m (g.base + i)

/-- The value of the bit at column `x`, row `y`: `(fb[idx(x, y)] >> (7 - x mod 8)) & 1` (10 R22). It is also the bit
`B_y[x]` of the row bit stream, for a padding column too (44 R180). -/
def Geom.pixel (g : Geom) (m : Mem) (x y : Nat) : BitVec 1 :=
  (g.byteAt m (g.index x y) >>> (7 - x % 8)).setWidth 1

/-- White sets, Black clears, Invert toggles the bits of `k` in a byte; NoOp leaves it (00 R14, 40 R100). -/
def applyMode (m : Mode) (b k : Byte) : Byte :=
  match m with
  | .white => b ||| k
  | .black => b &&& ~~~k
  | .invert => b ^^^ k
  | .noOp => b

/-- `plot(x, y, m)`: nothing outside the framebuffer and nothing under NoOp, else one bit of one byte (40 R100). -/
def plotOne (g : Geom) (m : Mem) (p : Plot) : Mem :=
  if g.contains p.x p.y && p.mode != .noOp then
    Mem.write m (g.base + g.index p.x.toNat p.y.toNat)
      (applyMode p.mode (g.byteAt m (g.index p.x.toNat p.y.toNat)) (bitmask p.x.toNat))
  else m

/-- A list of plots, in order. -/
def plotAll (g : Geom) (ps : List Plot) (m : Mem) : Mem := ps.foldl (plotOne g) m

/-- The integers `a, a + 1, .., b`, none when `a > b` (00 R13). -/
def interval (a b : Int) : List Int := (List.range (b + 1 - a).toNat).map fun n => a + (n : Int)

/-! ### The checks of an engine step -/

/-- `fb_mapped(a, n)`: one backed range holds the bytes `a .. a + n - 1` (00 R10). -/
def fbMapped (p : Platform) (a n : Nat) : Bool :=
  p.fbBacked.any fun r => decide (r.base ≤ a) && decide (a + n ≤ r.base + r.size)

/-- The region check of 20 R52 for the latched command: an empty region passes; another must end at or below 2^32 and
be backed. -/
def State.regionValid (s : State) : Bool :=
  let g := s.act.geom
  decide (g.bytes = 0) || (decide (g.base + g.bytes ≤ 2 ^ 32) && fbMapped s.platform g.base g.bytes)

/-- An engine step: the region check comes before any access (20 R52, 60 R225). -/
def State.engineStep (s : State) (k : State → Host.Outcome State Fault Refusal) : Host.Outcome State Fault Refusal :=
  if s.regionValid then k s else .fault .fbUnmapped

/-- What a drawing command leaves: its plots made in order, and BUSY 0. -/
def State.drawn (s : State) (ps : List Plot) : State :=
  { s.finish with fbmem := plotAll s.act.geom ps s.fbmem }

/-- The engine step of a command that draws. -/
def State.draw (s : State) (ps : List Plot) : Host.Outcome State Fault Refusal :=
  s.engineStep fun s => .next (s.drawn ps)

/-- What a command that writes every byte of the region leaves: `fb[i] <- f i`, and BUSY 0. -/
def State.rewritten (s : State) (f : Nat → Byte) : State :=
  { s.finish with fbmem := Mem.writeRange s.act.geom.base f s.act.geom.bytes s.fbmem }

/-- The engine step of a command that writes every byte of the region. -/
def State.rewrite (s : State) (f : Nat → Byte) : Host.Outcome State Fault Refusal :=
  s.engineStep fun s => .next (s.rewritten f)

/-- `SrcRead(a)`: the byte of SRCMEM, or none where it is unreadable or `a` reaches 2^32 (00 R13, 20 R53). -/
def State.srcRead (s : State) (a : Nat) : Option Byte :=
  if a < 2 ^ 32 ∧ (s.platform.srcReadable.any fun r => decide (r.base ≤ a) && decide (a < r.base + r.size)) then
    some (Mem.read s.srcmem a)
  else none

/-! ### The latch -/

/-- Acceptance of a command: ACT takes the command, the operand registers and the geometry, and BUSY becomes 1
(30 R78, 10 R35). -/
def State.accept (s : State) (i : Instr) : State :=
  { s with
    act := { cmd := i, a0 := s.arg0, a1 := s.arg1, a2 := s.arg2, base := s.fbBase, w := s.fbWidth, h := s.fbHeight }
    busy := true }

end Sys2Proof.Machine
end

