-- ==== Sys2Proof/Machine/Blit.lean ====
section
/-! DEFINITION. The BlitEngine command: BITMAP (spec/45_blit.md). -/

namespace Sys2Proof.Machine

/-- What the header reading of 45 R201 gives: the bitmap's size, and the offset of data byte 0. -/
structure BitmapHeader where
  width : Nat
  height : Nat
  data : Nat
  deriving DecidableEq, Repr

/-- One operand of the header, `rd` being `SrcRead`: a zero takes the byte at `source + a` and moves past it (45 R201). -/
def headerField (rd : Nat → Option Byte) (source a operand : Nat) : Option (Nat × Nat) :=
  if operand = 0 then (rd (source + a)).map fun b => (b.toNat, a + 1) else some (operand, a)

/-- The header: each zero operand consumes the next byte, width then height (45 R201, 90 C5). -/
def readHeader (rd : Nat → Option Byte) (source offset width height : Nat) : Option BitmapHeader :=
  match headerField rd source offset width with
  | none => none
  | some (w, a) =>
    match headerField rd source a height with
    | none => none
    | some (h, d) => some ⟨w, h, d⟩

/-- The `n` source bytes from `a` up, in increasing address; none when one of them is unreadable (45 R204). -/
def readBytes (rd : Nat → Option Byte) : Nat → Nat → Option (List Byte)
  | _, 0 => some []
  | a, n + 1 =>
    match rd a with
    | none => none
    | some b =>
      match readBytes rd (a + 1) n with
      | none => none
      | some bs => some (b :: bs)

/-- `ceil(width / 8)`, the bytes of a source row (45 R200). -/
def BitmapHeader.rowBytes (b : BitmapHeader) : Nat := (b.width + 7) / 8

/-- The source pixel `(i, j)`: bit `7 - (i mod 8)` of data byte `j * Sb + i // 8` (45 R200). -/
def sourcePixel (sb : Nat) (data : List Byte) (i j : Nat) : Bool :=
  ((data[j * sb + i / 8]?).getD 0x00#8).getLsbD (7 - i % 8)

/-- The plots of a bitmap, row by row: White for a source pixel 1, Black for 0 (45 R203). -/
def blit (x y : Int) (b : BitmapHeader) (data : List Byte) : List Plot :=
  (List.range b.height).flatMap fun (j : Nat) =>
    (List.range b.width).map fun (i : Nat) =>
      ⟨x + (i : Int), y + (j : Int), if sourcePixel b.rowBytes data i j then .white else .black⟩

/-- The whole source of the latched BITMAP: its header and every data byte, clipped or not (45 R204). -/
def readBitmap (rd : Nat → Option Byte) (a : Latch) : Option (BitmapHeader × List Byte) :=
  match readHeader rd a.source a.size2 a.bitmapWidth a.bitmapHeight with
  | none => none
  | some b =>
    match readBytes rd (a.source + b.data) (b.height * b.rowBytes) with
    | none => none
    | some data => some (b, data)

/-- BITMAP: the region check, then the whole source, then the plots (45 R202, R203, 60 R225). -/
def execBitmap (s : State) : Host.Outcome State Fault Refusal :=
  s.engineStep fun s =>
    match readBitmap s.srcRead s.act with
    | none => .fault .srcUnreadable
    | some (b, data) => .next (s.drawn (blit s.act.coord0 s.act.coord1 b data))

end Sys2Proof.Machine
end

