-- ==== Sys2Proof/Machine/FrameBuffer.lean ====
section
/-! DEFINITION. The FrameBuffer commands: SET_PIXEL, GET_PIXEL, FILL (spec/40_framebuffer.md). -/

namespace Sys2Proof.Machine

/-- SET_PIXEL: `plot(x, y, m)` with `x` in H0 and `y` in H1 (40 R101). -/
def execSetPixel (m : Mode) (s : State) : Host.Outcome State Fault Refusal :=
  s.draw [⟨s.act.coord0, s.act.coord1, m⟩]

/-- `get_pixel(x, y)` misses an upper bound; this is tested first (40 R102). -/
def Geom.missesAbove (g : Geom) (x y : Int) : Bool := decide ((g.w : Int) ≤ x) || decide ((g.h : Int) ≤ y)

/-- `get_pixel(x, y)` takes a free bit: a negative coordinate, no upper miss, and NEG_READ = draw (40 R102). -/
def State.drawsBit (s : State) (x y : Int) : Bool :=
  !s.act.geom.missesAbove x y && (decide (x < 0) || decide (y < 0)) && s.platform.negRead == .draw

/-- The value `get_pixel(x, y)` returns: 0 on an upper-bound miss; for a negative coordinate a free bit or 0, as NEG_READ
says; else the pixel (40 R102). -/
def State.pixelResult (s : State) (x y : Int) : BitVec 1 :=
  if s.act.geom.missesAbove x y then 0#1
  else if s.drawsBit x y then Config.freeBit s.draws
  else if x < 0 ∨ y < 0 then 0#1
  else s.act.geom.pixel s.fbmem x.toNat y.toNat

/-- RESULT takes the value of `get_pixel(x, y)`, and a free bit taken is counted (10 R28, 40 R102). -/
def State.readPixel (s : State) (x y : Int) : State :=
  { s with result := s.pixelResult x y, draws := if s.drawsBit x y then s.draws + 1 else s.draws }

/-- GET_PIXEL: the pixel of `x` in H0 and `y` in H1 into RESULT (40 R102). -/
def execGetPixel (s : State) : Host.Outcome State Fault Refusal :=
  s.engineStep fun s => .next (s.readPixel s.act.coord0 s.act.coord1).finish

/-- What FILL stores over a byte: 0x00, 0xFF, or every bit toggled (40 R103). -/
def fillByte (m : Mode) (old : Byte) : Byte :=
  match m with
  | .black => 0x00#8
  | .white => 0xFF#8
  | .invert => old ^^^ 0xFF#8
  | .noOp => old

/-- FILL: every byte of the region, padding bits too; NoOp makes no access (40 R103). -/
def execFill (m : Mode) (s : State) : Host.Outcome State Fault Refusal :=
  match m with
  | .noOp => s.engineStep fun s => .next s.finish
  | _ => s.rewrite fun i => fillByte m (s.act.geom.byteAt s.fbmem i)

end Sys2Proof.Machine
end

