-- ==== Sys2Proof/Machine/Span.lean ====
section
/-! DEFINITION. The SpanWriter commands: DRAW_ROW, DRAW_COLUMN (spec/41_span.md). -/

namespace Sys2Proof.Machine

/-- `span_row(y, xa, xb, m)`: each column of `[min, max]` once, both ends included (41 R120, 90 C1). -/
def spanRow (y xa xb : Int) (m : Mode) : List Plot := (interval (min xa xb) (max xa xb)).map fun x => ⟨x, y, m⟩

/-- `span_col(x, ya, yb, m)`: each row of `[min, max]` once, both ends included (41 R123). -/
def spanCol (x ya yb : Int) (m : Mode) : List Plot := (interval (min ya yb) (max ya yb)).map fun y => ⟨x, y, m⟩

/-- DRAW_ROW: `y` in H0, `x0` in H1, `x1` in H2 (41 R121). -/
def execDrawRow (m : Mode) (s : State) : Host.Outcome State Fault Refusal :=
  s.draw (spanRow s.act.coord0 s.act.coord1 s.act.coord2 m)

/-- DRAW_COLUMN: `x` in H0, `y0` in H1, `y1` in H2 (41 R124). -/
def execDrawColumn (m : Mode) (s : State) : Host.Outcome State Fault Refusal :=
  s.draw (spanCol s.act.coord0 s.act.coord1 s.act.coord2 m)

end Sys2Proof.Machine
end

