-- ==== Sys2Proof/Machine/Raster.lean ====
section
/-! DEFINITION. The Rasterizer commands: DRAW_LINE, DRAW_CIRCLE (spec/42_raster.md). -/

namespace Sys2Proof.Machine

/-- The variables of the line loop (42 R140). -/
structure LineVars where
  x : Int
  y : Int
  err : Int
  deriving DecidableEq, Repr

/-- What the line loop does not change: `dx`, `dy`, the step directions and the terminal endpoint (42 R140). -/
structure LineParams where
  dx : Int
  dy : Int
  sx : Int
  sy : Int
  x1 : Int
  y1 : Int
  deriving DecidableEq, Repr

/-- One advance of the line loop: `e2 <- 2 * err` and the two comparisons, both on that `e2` (42 R140, D21, K1,
log entry 2). -/
def lineAdvance (p : LineParams) (v : LineVars) : LineVars :=
  let e2 := 2 * v.err
  let v' : LineVars := if -p.dy < e2 then { v with err := v.err - p.dy, x := v.x + p.sx } else v
  if e2 < p.dx then { v' with err := v'.err + p.dx, y := v'.y + p.sy } else v'

/-- The points the line loop plots, in order, over at most `passes` passes: the loop exits after plotting the terminal
endpoint (42 R140). -/
def lineLoop (p : LineParams) : Nat → LineVars → List (Int × Int)
  | 0, _ => []
  | n + 1, v =>
    (v.x, v.y) :: if v.x = p.x1 ∧ v.y = p.y1 then [] else lineLoop p n (lineAdvance p v)

/-- `dx`, `dy`, `sx`, `sy` and the endpoint of a line (42 R140). -/
def lineParams (x0 y0 x1 y1 : Int) : LineParams where
  dx := |x1 - x0|
  dy := |y1 - y0|
  sx := if x0 < x1 then 1 else -1
  sy := if y0 < y1 then 1 else -1
  x1 := x1
  y1 := y1

/-- The number of passes after which the line loop has ended (42 R142, log entry 14). -/
def linePasses (p : LineParams) : Nat := (max p.dx p.dy).toNat + 1

/-- The points of a line, start to end (42 R140). -/
def linePoints (x0 y0 x1 y1 : Int) : List (Int × Int) :=
  let p := lineParams x0 y0 x1 y1
  lineLoop p (linePasses p) ⟨x0, y0, p.dx - p.dy⟩

/-- `line(x0, y0, x1, y1, m)`: one plot for coincident endpoints; else the terminal endpoint once and then every point
of the line, so that the endpoint is plotted twice (42 R140, R143). -/
def line (x0 y0 x1 y1 : Int) (m : Mode) : List Plot :=
  if x0 = x1 ∧ y0 = y1 then [⟨x0, y0, m⟩]
  else ⟨x1, y1, m⟩ :: (linePoints x0 y0 x1 y1).map fun q => ⟨q.1, q.2, m⟩

/-- DRAW_LINE: `x0`, `y0`, `x1`, `y1` in H0 to H3 (42 R141). -/
def execDrawLine (m : Mode) (s : State) : Host.Outcome State Fault Refusal :=
  s.draw (line s.act.coord0 s.act.coord1 s.act.coord2 s.act.coord3 m)

/-- The variables of the circle loop (42 R144). -/
structure CircleVars where
  x : Int
  y : Int
  f : Int
  ddFx : Int
  ddFy : Int
  deriving DecidableEq, Repr

/-- The circle loop's variables before its first pass (42 R144). -/
def circleStart (r : Int) : CircleVars := ⟨0, r, 1 - r, 1, -2 * r⟩

/-- One pass of the circle loop: `y` steps when `f >= 0`, then `x` steps always (42 R144). -/
def circleAdvance (v : CircleVars) : CircleVars :=
  let v' : CircleVars :=
    if 0 ≤ v.f then { v with y := v.y - 1, ddFy := v.ddFy + 2, f := v.f + (v.ddFy + 2) } else v
  { v' with x := v'.x + 1, ddFx := v'.ddFx + 2, f := v'.f + (v'.ddFx + 2) }

/-- The values before and after each pass of the circle loop, over at most `passes` passes: a pass is made while
`x + 1 < y`, tested before it (42 R144, R147, D22). -/
def circleLoop : Nat → CircleVars → List (CircleVars × CircleVars)
  | 0, _ => []
  | n + 1, v => if v.x + 1 < v.y then (v, circleAdvance v) :: circleLoop n (circleAdvance v) else []

/-- The passes of a circle of radius `r`: at most `r` (42 R148, log entry 14). -/
def circlePasses (r : Nat) : List (CircleVars × CircleVars) := circleLoop r (circleStart r)

/-- The eight symmetric octant points (42 R146, K2, log entry 2). -/
def octantPoints (cx cy x y : Int) (m : Mode) : List Plot :=
  [⟨cx + x, cy + y, m⟩, ⟨cx - x, cy + y, m⟩, ⟨cx + x, cy - y, m⟩, ⟨cx - x, cy - y, m⟩,
   ⟨cx + y, cy + x, m⟩, ⟨cx - y, cy + x, m⟩, ⟨cx + y, cy - x, m⟩, ⟨cx - y, cy - x, m⟩]

/-- The four cardinal points, in mode `m` (42 R144). -/
def cardinalPoints (cx cy r : Int) (m : Mode) : List Plot :=
  [⟨cx, cy + r, m⟩, ⟨cx, cy - r, m⟩, ⟨cx + r, cy, m⟩, ⟨cx - r, cy, m⟩]

/-- The spans of one pass with a fill: at `cy ± y` when the pass changed `y`, at `cy ± x` when it changed `x`, both
when they fall on the same rows (42 R144, 90 C8). -/
def circleSpans (cx cy : Int) (before after : CircleVars) (fm : Mode) : List Plot :=
  (if after.y ≠ before.y then
    spanRow (cy + after.y) (cx - after.x) (cx + after.x) fm ++ spanRow (cy - after.y) (cx - after.x) (cx + after.x) fm
   else []) ++
  (if after.x ≠ before.x then
    spanRow (cy + after.x) (cx - after.y) (cx + after.y) fm ++ spanRow (cy - after.x) (cx - after.y) (cx + after.y) fm
   else [])

/-- `circle(cx, cy, r, m, fill)`: the cardinals in mode `m`; with a fill the centre span, then the spans of each pass and
no octant point; without one the octant points of each pass (42 R144, D23). -/
def circle (cx cy : Int) (r : Nat) (m : Mode) (fill : Option Mode) : List Plot :=
  cardinalPoints cx cy r m ++
  match fill with
  | some fm =>
    spanRow cy (cx - r) (cx + r) fm ++ (circlePasses r).flatMap fun p => circleSpans cx cy p.1 p.2 fm
  | none => (circlePasses r).flatMap fun p => octantPoints cx cy p.2.x p.2.y m

/-- DRAW_CIRCLE: `cx` in H0, `cy` in H1, the radius in H2 (42 R145). -/
def execDrawCircle (m : Mode) (fe : Bool) (fm : Mode) (s : State) : Host.Outcome State Fault Refusal :=
  s.draw (circle s.act.coord0 s.act.coord1 s.act.size2 m (fillOperand fe fm))

end Sys2Proof.Machine
end

