-- ==== Sys2Proof/Machine/Rect.lean ====
section
/-! DEFINITION. The RectEngine command: DRAW_RECT (spec/43_rect.md). -/

namespace Sys2Proof.Machine

/-- `rect_outline(x0, y0, w, h, m)`: `w` and `h` are offsets to the last column and row; the side columns cover the
interior rows only (43 R171, D24). -/
def rectOutline (x0 y0 : Int) (w h : Nat) (m : Mode) : List Plot :=
  if w = 0 ∧ h = 0 then [⟨x0, y0, m⟩]
  else if w = 0 then line x0 y0 x0 (y0 + h) m
  else if h = 0 then line x0 y0 (x0 + w) y0 m
  else
    line x0 y0 (x0 + w) y0 m ++ line x0 (y0 + h) (x0 + w) (y0 + h) m ++
    if 1 < h then
      line x0 (y0 + 1) x0 (y0 + h - 1) m ++ line (x0 + w) (y0 + 1) (x0 + w) (y0 + h - 1) m
    else []

/-- `rect_filled(x0, y0, w, h, fm)`: `h` rows, each the inclusive span `[x0, x0 + w]` (43 R172, D25). -/
def rectFilled (x0 y0 : Int) (w h : Nat) (fm : Mode) : List Plot :=
  (interval 0 ((h : Int) - 1)).flatMap fun i => spanRow (y0 + i) x0 (x0 + w) fm

/-- The plots of DRAW_RECT: outline without a fill operand, filled with one; then `m` has no effect (43 R170). -/
def rect (x0 y0 : Int) (w h : Nat) (m : Mode) (fill : Option Mode) : List Plot :=
  match fill with
  | none => rectOutline x0 y0 w h m
  | some fm => rectFilled x0 y0 w h fm

/-- DRAW_RECT: `x0` in H0, `y0` in H1, `w` in H2, `h` in H3 (43 R170). -/
def execDrawRect (m : Mode) (fe : Bool) (fm : Mode) (s : State) : Host.Outcome State Fault Refusal :=
  s.draw (rect s.act.coord0 s.act.coord1 s.act.size2 s.act.size3 m (fillOperand fe fm))

end Sys2Proof.Machine
end

