-- ==== Sys2Proof/Machine/Scroll.lean ====
section
/-! DEFINITION. The ScrollEngine command: SHIFT (spec/44_scroll.md). It works on the bytes of the region, padding bits
included, not through `plot`. -/

namespace Sys2Proof.Machine

/-- A byte from its eight bits, the smallest column first: the sum of `f j << (7 - j)` (44 R184). -/
def packByte (f : Nat → BitVec 1) : Byte :=
  f 0 ++ f 1 ++ f 2 ++ f 3 ++ f 4 ++ f 5 ++ f 6 ++ f 7

/-- `new[r*S + k]` of an Up shift by `d` rows (44 R182). -/
def shiftUpByte (g : Geom) (m : Mem) (d r k : Nat) : Byte :=
  if r + d < g.h then g.byteAt m ((r + d) * g.stride + k) else 0x00#8

/-- `new[r*S + k]` of a Down shift by `d` rows (44 R183). -/
def shiftDownByte (g : Geom) (m : Mem) (d r k : Nat) : Byte :=
  if d ≤ r then g.byteAt m ((r - d) * g.stride + k) else 0x00#8

/-- `B'_r[c]` of a Left shift by `d` bits (44 R184). -/
def shiftLeftBit (g : Geom) (m : Mem) (d r c : Nat) : BitVec 1 :=
  if c + d < 8 * g.stride then g.pixel m (c + d) r else 0#1

/-- `B'_r[c]` of a Right shift by `d` bits (44 R185). -/
def shiftRightBit (g : Geom) (m : Mem) (d r c : Nat) : BitVec 1 :=
  if d ≤ c then g.pixel m (c - d) r else 0#1

/-- `new[r*S + k]` (44 R182 to R185). -/
def shiftByte (dir : Dir) (g : Geom) (m : Mem) (d r k : Nat) : Byte :=
  match dir with
  | .up => shiftUpByte g m d r k
  | .down => shiftDownByte g m d r k
  | .left => packByte fun j => shiftLeftBit g m d r (8 * k + j)
  | .right => packByte fun j => shiftRightBit g m d r (8 * k + j)

/-- SHIFT by the distance in H0: every byte of the region takes its new value, all computed from the old ones
(44 R181). -/
def execShift (dir : Dir) (s : State) : Host.Outcome State Fault Refusal :=
  s.rewrite fun i =>
    shiftByte dir s.act.geom s.fbmem s.act.size0 (i / s.act.geom.stride) (i % s.act.geom.stride)

end Sys2Proof.Machine
end

