-- ==== Sys2Proof/Machine/Dispatch.lean ====
section
/-! DEFINITION. One arm per command: the engine step of a command, with the operands and the geometry of the latch. -/

namespace Sys2Proof.Machine

def exec (i : Instr) (s : State) : Host.Outcome State Fault Refusal :=
  match i with
  | .setPixel m => Sys2Proof.Machine.execSetPixel m s
  | .getPixel => Sys2Proof.Machine.execGetPixel s
  | .fill m => Sys2Proof.Machine.execFill m s
  | .drawRow m => Sys2Proof.Machine.execDrawRow m s
  | .drawColumn m => Sys2Proof.Machine.execDrawColumn m s
  | .drawLine m => Sys2Proof.Machine.execDrawLine m s
  | .drawRect m fe fm => Sys2Proof.Machine.execDrawRect m fe fm s
  | .drawCircle m fe fm => Sys2Proof.Machine.execDrawCircle m fe fm s
  | .shift dir => Sys2Proof.Machine.execShift dir s
  | .bitmap => Sys2Proof.Machine.execBitmap s

end Sys2Proof.Machine
end

