-- ==== Sys2Proof/Machine/HostPort.lean ====
section
/-! DEFINITION. What the outside does to the block, one transition each: host register accesses through the window
(10 R25 to R34, 20 R56), host FBMEM accesses (20 R57, 70 R257), the scanout reader (70 R256) and reset
(70 R250 to R252). -/

namespace Sys2Proof.Machine

/-! ### The register window -/

/-- The register at an offset of the window (10 R25); every other multiple of 4 up to 0x3C is reserved (10 R34). -/
def regAt (offset : Nat) : Reg :=
  match offset with
  | 0x00 => .cmd
  | 0x04 => .arg0
  | 0x08 => .arg1
  | 0x0C => .arg2
  | 0x10 => .result
  | 0x14 => .status
  | 0x18 => .fbBase
  | 0x1C => .fbWidth
  | 0x20 => .fbHeight
  | 0x24 => .fbStride
  | _ => .reserved

/-- The offset of a register, and of the first reserved one (10 R25). -/
def offsetOf : Reg → BitVec 6
  | .cmd => 0x00#6
  | .arg0 => 0x04#6
  | .arg1 => 0x08#6
  | .arg2 => 0x0C#6
  | .result => 0x10#6
  | .status => 0x14#6
  | .fbBase => 0x18#6
  | .fbWidth => 0x1C#6
  | .fbHeight => 0x20#6
  | .fbStride => 0x24#6
  | .reserved => 0x28#6

/-- `ENGINE_BASE + offset` (20 R56). -/
def windowAddr (p : Platform) (offset : BitVec 6) : Word := p.engineBlock ++ offset

/-- The register a host register access reaches, or its refusal: the address must lie in the window, the access be
32 bits wide and the offset a multiple of 4 (20 R56, 60 R224, log entry 8). -/
def regAccess (p : Platform) (addr : Word) (bits : Nat) : Except Refusal Reg :=
  if addr.extractLsb' 6 26 ≠ p.engineBlock then .error .outsideWindow
  else if bits ≠ 32 then .error .regWidth
  else if addr.toNat % 4 ≠ 0 then .error .regMisaligned
  else .ok (regAt (addr.extractLsb' 0 6).toNat)

/-- The value a read of a register returns; no read has a side effect (10 R26 to R34, 20 R60). -/
def State.regValue (s : State) (r : Reg) : Word :=
  match r with
  | .cmd => 0#32
  | .arg0 => s.arg0
  | .arg1 => s.arg1
  | .arg2 => s.arg2
  | .result => s.result.setWidth 32
  | .status => s.statusWord
  | .fbBase => s.fbBase
  | .fbWidth => s.fbWidth.setWidth 32
  | .fbHeight => s.fbHeight.setWidth 32
  | .fbStride => BitVec.ofNat 32 ((s.fbWidth.toNat + 7) / 8)
  | .reserved => 0#32

/-- A write that is dropped, setting OVERRUN, while BUSY = 1 (60 R222). -/
def State.whenIdle (s t : State) : State := if s.busy then s.setOverrun else t

/-- A command word written to CMD while BUSY = 0: accepted, or rejected as illegal (30 R78, 60 R221). -/
def State.submit (s : State) (v : Word) : State :=
  match decode v with
  | .ok i => s.accept i
  | .error _ => s.setIllegal

/-- A host write of `v` to a register (10 R26 to R34, 30 R78, 60 R222, R225). -/
def State.regWrite (s : State) (r : Reg) (v : Word) : State :=
  match r with
  | .cmd => s.whenIdle (s.submit v)
  | .arg0 => s.whenIdle { s with arg0 := v }
  | .arg1 => s.whenIdle { s with arg1 := v }
  | .arg2 => s.whenIdle { s with arg2 := v }
  | .result => s
  | .status => s.ackStatus v
  | .fbBase => s.whenIdle { s with fbBase := v }
  | .fbWidth => s.whenIdle { s with fbWidth := v.setWidth 15 }
  | .fbHeight => s.whenIdle { s with fbHeight := v.setWidth 15 }
  | .fbStride => s
  | .reserved => s

/-- A read's value is delivered to the host (70 R262). -/
def State.deliver (s : State) (v : ReadValue) : State := { s with reads := s.reads ++ [v] }

/-- The host makes a register read. -/
def hostRegRead (addr : Word) (bits : Nat) (s : State) : Host.Outcome State Fault Refusal :=
  match regAccess s.platform addr bits with
  | .error r => .refused r
  | .ok reg => .next (s.deliver (.reg (s.regValue reg)))

/-- The host makes a register write. -/
def hostRegWrite (addr : Word) (bits : Nat) (v : Word) (s : State) : Host.Outcome State Fault Refusal :=
  match regAccess s.platform addr bits with
  | .error r => .refused r
  | .ok reg => .next (s.regWrite reg v)

/-- One STATUS read of the poll loop, which goes on while BUSY = 1 (30 R84). -/
def hostWait (s : State) : Host.Outcome State Fault Refusal :=
  let t := s.deliver (.reg s.statusWord)
  .next (if s.busy then { t with inputs := .wait :: t.inputs } else t)

/-! ### FBMEM from outside -/

/-- The address is in the region of the command in progress (70 R257). -/
def State.inBusyRegion (s : State) (a : Word) : Bool := s.busy && s.act.geom.inRegion a.toNat

/-- The byte an outside read of FBMEM returns: a free byte in the running command's region, else memory
(70 R256, R257). -/
def State.outsideByte (s : State) (a : Word) : Byte :=
  if s.inBusyRegion a then Config.freeByte s.draws else Mem.read s.fbmem a.toNat

/-- The number of free values drawn after an outside read of FBMEM. -/
def State.outsideDraws (s : State) (a : Word) : Nat := if s.inBusyRegion a then s.draws + 1 else s.draws

/-- The host reads a byte of FBMEM, backed or not (20 R57, 70 R257, log entry 9). -/
def hostFbRead (a : Word) (bits : Nat) (s : State) : Host.Outcome State Fault Refusal :=
  if bits ≠ 8 then .refused .fbWidth
  else .next { s.deliver (.byte (s.outsideByte a)) with draws := s.outsideDraws a }

/-- The host writes a byte of FBMEM; in the running command's region that is a race (20 R57, 70 R257,
log entry 9). -/
def hostFbWrite (a : Word) (bits : Nat) (v : Word) (s : State) : Host.Outcome State Fault Refusal :=
  if bits ≠ 8 then .refused .fbWidth
  else if s.inBusyRegion a then .fault .hostRace
  else .next { s with fbmem := Mem.write s.fbmem a.toNat (v.setWidth 8) }

/-- The scanout reader reads a byte of FBMEM (70 R256, log entry 12). -/
def scanoutRead (a : Word) (s : State) : Host.Outcome State Fault Refusal :=
  .next { s with scanned := s.scanned ++ [s.outsideByte a], draws := s.outsideDraws a }

/-! ### Reset -/

/-- Every register at its reset value, and no command in ACT; memory, the platform and the surroundings as they were
(70 R250, R251). -/
def State.resetRegs (s : State) : State :=
  { s with
    arg0 := 0#32
    arg1 := 0#32
    arg2 := 0#32
    result := 0#1
    busy := false
    illegal := false
    overrun := false
    fbBase := 0#32
    fbWidth := 0#15
    fbHeight := 0#15
    act := Latch.empty }

/-- Every byte of the latched command's region replaced by a free byte (70 R252). -/
def State.scramble (s : State) : State :=
  { s with
    fbmem := Mem.writeRange s.act.geom.base (fun i => Config.freeByte (s.draws + i)) s.act.geom.bytes s.fbmem
    draws := s.draws + s.act.geom.bytes }

/-- Reset: while BUSY = 1 the command in progress is abandoned, with its region check and its region's bytes free
(70 R250 to R252). -/
def resetBlock (s : State) : Host.Outcome State Fault Refusal :=
  if s.busy then s.engineStep fun s => .next s.scramble.resetRegs else .next s.resetRegs

/-- One move of the outside. -/
def outsideStep (i : Input) (s : State) : Host.Outcome State Fault Refusal :=
  match i with
  | .regRead addr bits => hostRegRead addr bits s
  | .regWrite addr bits v => hostRegWrite addr bits v s
  | .wait => hostWait s
  | .fbRead a bits => hostFbRead a bits s
  | .fbWrite a bits v => hostFbWrite a bits v s
  | .scanRead a => scanoutRead a s
  | .reset => resetBlock s

end Sys2Proof.Machine
end

