-- ==== Sys2Proof/Machine/Schedule.lean ====
section
/-! DEFINITION. Which agent moves next (20 R59, R63, 60 R234, 70 R259). While BUSY = 0 the engine has nothing to do, and
the outside makes its next move; with none left the block is idle. While BUSY = 1 either may move: `turns` says which,
and the engine moves when `turns` is used up or the outside has nothing left to do (log entry 7). -/

namespace Sys2Proof.Machine

/-- The move a step makes. -/
inductive Move where
  /-- Nothing happens: the block is idle (60 R234). -/
  | idle
  /-- The engine step of the latched command (20 R59). -/
  | engine
  /-- The outside makes its move `i` and has `rest` left. -/
  | outside (i : Input) (rest : List Input)
  deriving DecidableEq, Repr

/-- The move the next step makes. -/
def State.nextMove (s : State) : Move :=
  if s.busy then
    match s.inputs, s.turns with
    | i :: rest, .outside :: _ => .outside i rest
    | _, _ => .engine
  else
    match s.inputs with
    | [] => .idle
    | i :: rest => .outside i rest

/-- A step made while BUSY = 1 uses up one entry of `turns`. -/
def State.spendTurn (s : State) : State := { s with turns := if s.busy then s.turns.tail else s.turns }

/-- The state in which the outside makes its move, with `rest` left to do. -/
def State.outsideView (s : State) (rest : List Input) : State := { s.spendTurn with inputs := rest }

/-- A command word placed for the next step: a legal word as the accepted command, the engine to move next; an illegal
one as the host's next write to CMD (30 R78, log entry 11). -/
def State.place (s : State) (v : Word) : State :=
  match decode v with
  | .ok i => { s.accept i with turns := .engine :: s.turns }
  | .error _ =>
    { s with busy := false, inputs := .regWrite (windowAddr s.platform (offsetOf .cmd)) 32 v :: s.inputs }

end Sys2Proof.Machine
end

