-- ==== Sys2Proof/Machine/Step.lean ====
section
/-! DEFINITION. One step of the machine: one transition of one agent (20 R59, 60 R225). -/

namespace Sys2Proof.Machine

/-- One step: idle, the engine step of the latched command, or one move of the outside. -/
def step (s : State) : Host.Outcome State Fault Refusal :=
  match s.nextMove with
  | .idle => .next s
  | .engine => exec s.act.cmd s.spendTurn
  | .outside i rest => outsideStep i (s.outsideView rest)

/-- The state with a command word placed so that the very next step runs it (log entry 11). -/
def State.withFetchWord (s : State) (_nbits w : Nat) : State := s.place (BitVec.ofNat 32 w)

end Sys2Proof.Machine
end

