-- ==== Sys2Proof/Machine/Asm.lean ====
section
/-! DEFINITION. The assembler lines and pseudo-instructions of 30 R83 and R84, as what they expand to: host accesses. The
text of a line is not modelled, only what it means (log entry 13). -/

namespace Sys2Proof.Machine

/-- A line of a host program, its immediates as integers (30 R83). -/
inductive Line where
  | setPixel (x y : Int) (m : Mode)
  | getPixel (x y : Int)
  | fill (m : Mode)
  | drawRow (y x0 x1 : Int) (m : Mode)
  | drawColumn (x y0 y1 : Int) (m : Mode)
  | drawLine (x0 y0 x1 y1 : Int) (m : Mode)
  | drawRect (x0 y0 w h : Int) (m : Mode) (fill : Option Mode)
  | drawCircle (cx cy radius : Int) (m : Mode) (fill : Option Mode)
  | shift (distance : Int) (dir : Dir)
  | bitmap (x y source offset width height : Int)
  deriving DecidableEq, Repr

/-- An operand word from its low and high half. -/
def halves (lo hi : Int) : Word := BitVec.ofInt 16 hi ++ BitVec.ofInt 16 lo

/-- FM of a fill operand: present sets FE and FM, absent sets both to 0 (30 R83). -/
def fillCode (fill : Option Mode) : Mode := fill.getD .black

/-- The command of a line. -/
def Line.command : Line → Instr
  | .setPixel _ _ m => .setPixel m
  | .getPixel _ _ => .getPixel
  | .fill m => .fill m
  | .drawRow _ _ _ m => .drawRow m
  | .drawColumn _ _ _ m => .drawColumn m
  | .drawLine _ _ _ _ m => .drawLine m
  | .drawRect _ _ _ _ m fo => .drawRect m fo.isSome (fillCode fo)
  | .drawCircle _ _ _ m fo => .drawCircle m fo.isSome (fillCode fo)
  | .shift _ dir => .shift dir
  | .bitmap _ _ _ _ _ _ => .bitmap

/-- The operand words of a line, ARG0 then ARG1 then ARG2, those the command uses, unused halves 0 (30 R79, R80, R83). -/
def Line.operands : Line → List (Reg × Word)
  | .setPixel x y _ => [(.arg0, halves x y)]
  | .getPixel x y => [(.arg0, halves x y)]
  | .fill _ => []
  | .drawRow y x0 x1 _ => [(.arg0, halves y x0), (.arg1, halves x1 0)]
  | .drawColumn x y0 y1 _ => [(.arg0, halves x y0), (.arg1, halves y1 0)]
  | .drawLine x0 y0 x1 y1 _ => [(.arg0, halves x0 y0), (.arg1, halves x1 y1)]
  | .drawRect x0 y0 w h _ _ => [(.arg0, halves x0 y0), (.arg1, halves w h)]
  | .drawCircle cx cy radius _ _ => [(.arg0, halves cx cy), (.arg1, halves radius 0)]
  | .shift distance _ => [(.arg0, halves distance 0)]
  | .bitmap x y source offset width height =>
    [(.arg0, halves x y), (.arg1, halves offset (width % 256 + 256 * height)), (.arg2, BitVec.ofInt 32 source)]

/-- A host write of a register. -/
def writeReg (p : Platform) (r : Reg) (v : Word) : Input := .regWrite (windowAddr p (offsetOf r)) 32 v

/-- A host read of a register. -/
def readReg (p : Platform) (r : Reg) : Input := .regRead (windowAddr p (offsetOf r)) 32

/-- The host accesses of a line: its operand writes, the write of CMD, then `wait` (30 R83). -/
def Line.assemble (p : Platform) (l : Line) : List Input :=
  l.operands.map (fun a => writeReg p a.1 a.2) ++ [writeReg p .cmd (encode l.command), .wait]

/-- `read_result`: `wait`, then read RESULT (30 R84). -/
def readResult (p : Platform) : List Input := [.wait, readReg p .result]

/-- `clear` is `fill black` (30 R84). -/
def clearLine : Line := .fill .black

/-- `rect_fill x0, y0, w, h, FM` (30 R84). -/
def rectFill (x0 y0 w h : Int) (fm : Mode) : Line := .drawRect x0 y0 w h .black (some fm)

/-- `circle_fill cx, cy, r, M` (30 R84). -/
def circleFill (cx cy r : Int) (m : Mode) : Line := .drawCircle cx cy r m (some m)

/-- `scroll_up d`, `scroll_down d`, `scroll_left d`, `scroll_right d` (30 R84). -/
def scroll (dir : Dir) (d : Int) : Line := .shift d dir

/-- `blit_hdr x, y, source, offset`: width and height from the header (30 R84). -/
def blitHdr (x y source offset : Int) : Line := .bitmap x y source offset 0 0

/-- `config base, W, H` (30 R84). -/
def configure (p : Platform) (base w h : Word) : List Input :=
  [writeReg p .fbBase base, writeReg p .fbWidth w, writeReg p .fbHeight h]

end Sys2Proof.Machine
end

