-- ==== Sys2Proof/Machine/ByteMethods.lean ====
section
/-! DEFINITION. The document's byte-level methods, as the spec corrects them: informative (41 R122, 44 R186, 45 R205). No
meaning uses them; obligations say where they equal the meanings. -/

namespace Sys2Proof.Machine

/-- `apply(i, k)`: set, clear or toggle the columns of mask `k` in byte `i` (41 R122). -/
def maskByte (g : Geom) (md : Mode) (k : Byte) (m : Mem) (i : Nat) : Mem :=
  Mem.write m (g.base + i) (applyMode md (g.byteAt m i) k)

/-- DRAW_ROW byte by byte: left mask, whole bytes, right mask, with the right mask corrected (41 R122, 90 C1). -/
def rowByBytes (g : Geom) (y x0 x1 : Int) (md : Mode) (m : Mem) : Mem :=
  let a := max (min x0 x1) 0
  let b := min (max x0 x1) ((g.w : Int) - 1)
  if y < 0 ∨ (g.h : Int) ≤ y ∨ b < a ∨ md = .noOp then m
  else
    let lmask := 0xFF#8 >>> (a.toNat % 8)
    let rmask := ~~~(0x7F#8 >>> (b.toNat % 8))
    let ia := g.index a.toNat y.toNat
    let ib := g.index b.toNat y.toNat
    if ia = ib then maskByte g md (lmask &&& rmask) m ia
    else
      maskByte g md rmask
        ((List.range' (ia + 1) (ib - ia - 1)).foldl (maskByte g md 0xFF#8) (maskByte g md lmask m ia)) ib

/-- `old[r*S + j]`, read as 0 outside the row (44 R186). -/
def rowByteOrZero (g : Geom) (m : Mem) (r : Nat) (j : Int) : Byte :=
  if 0 ≤ j ∧ j < g.stride then g.byteAt m (r * g.stride + j.toNat) else 0x00#8

/-- The byte formula of a Left shift (44 R186). -/
def leftByBytes (g : Geom) (m : Mem) (d r k : Nat) : Byte :=
  let q := d / 8
  let s := d % 8
  rowByteOrZero g m r (k + q) <<< s ||| if s = 0 then 0#8 else rowByteOrZero g m r (k + q + 1) >>> (8 - s)

/-- The byte formula of a Right shift (44 R186). -/
def rightByBytes (g : Geom) (m : Mem) (d r k : Nat) : Byte :=
  let q := d / 8
  let s := d % 8
  rowByteOrZero g m r (k - q) >>> s ||| if s = 0 then 0#8 else rowByteOrZero g m r (k - q - 1) <<< (8 - s)

/-- One move of the in-place copy: read the source byte, clear it, write the destination (44 R186). -/
def moveByte (g : Geom) (m : Mem) (src dst : Nat) : Mem :=
  Mem.write (Mem.write m (g.base + src) 0#8) (g.base + dst) (g.byteAt m src)

/-- The in-place Up copy, ascending (44 R186). -/
def upInPlace (g : Geom) (d : Nat) (m : Mem) : Mem :=
  (List.range (g.bytes - d * g.stride)).foldl (fun m i => moveByte g m (i + d * g.stride) i) m

/-- The in-place Down copy, descending (44 R186). -/
def downInPlace (g : Geom) (d : Nat) (m : Mem) : Mem :=
  (List.range (g.bytes - d * g.stride)).foldr (fun i m => moveByte g m i (i + d * g.stride)) m

/-- The clear pass over the rows `H - d .. d - 1`, which an in-place copy by more than half the height neither copies to
nor clears; no row for `d <= H / 2`, every row for `d >= H` (44 R186). -/
def clearUntouched (g : Geom) (d : Nat) (m : Mem) : Mem :=
  Mem.writeRange (g.base + (g.h - d) * g.stride) (fun _ => 0x00#8) ((min d g.h - (g.h - d)) * g.stride) m

/-- Up byte by byte, for every distance (44 R186). -/
def upByBytes (g : Geom) (d : Nat) (m : Mem) : Mem := clearUntouched g d (upInPlace g d m)

/-- Down byte by byte, for every distance (44 R186). -/
def downByBytes (g : Geom) (d : Nat) (m : Mem) : Mem := clearUntouched g d (downInPlace g d m)

/-- The columns of byte `q` of a row that are pixels: `8q .. 8q + 7` inside `[0, W)` (45 R205, R203). -/
def Geom.pixelMask (g : Geom) (q : Int) : Byte :=
  if q < 0 then 0x00#8 else 0xFF#8 <<< (8 - min 8 (g.w - 8 * q.toNat))

/-- Byte `q` of row `y`, merged with `v` under the mask `k` and the clipping of 45 R203: columns outside `[0, W)` and rows
outside `[0, H)` are discarded, and no byte is touched where nothing is left (45 R205). -/
def mergeByte (g : Geom) (m : Mem) (y q : Int) (k v : Byte) : Mem :=
  let c := k &&& g.pixelMask q
  if y < 0 ∨ (g.h : Int) ≤ y ∨ c = 0x00#8 then m
  else
    let i := y.toNat * g.stride + q.toNat
    Mem.write m (g.base + i) (g.byteAt m i &&& ~~~c ||| v &&& c)

/-- The first `n` columns of a source byte placed at column `x` of row `y`: `s >> rshift` in the low `lshift` bits of the
first byte and, when `rshift > 0`, `s << lshift` in the high `rshift` bits of the next, each under its edge mask
(45 R205, 90 C6). -/
def placeByte (g : Geom) (x y : Int) (n : Nat) (s : Byte) (m : Mem) : Mem :=
  let rshift := (x % 8).toNat
  let lshift := 8 - rshift
  let k := 0xFF#8 <<< (8 - n)
  let first := mergeByte g m y (x / 8) (k >>> rshift) (s >>> rshift)
  if 0 < rshift then mergeByte g first y (x / 8 + 1) (k <<< lshift) (s <<< lshift) else first

/-- BITMAP byte by byte, at any place, clipped to the framebuffer (45 R205). -/
def blitByBytes (g : Geom) (x y : Int) (b : BitmapHeader) (data : List Byte) (m : Mem) : Mem :=
  (List.range b.height).foldl (fun m (j : Nat) =>
    (List.range b.rowBytes).foldl (fun m (k : Nat) =>
      placeByte g (x + 8 * (k : Int)) (y + (j : Int)) (min 8 (b.width - 8 * k))
        ((data[j * b.rowBytes + k]?).getD 0x00#8) m) m) m

end Sys2Proof.Machine
end

