-- ==== Sys2Proof/Safety.lean ====
section
/-! DEFINITION. What claims are about: launches, the end of a run and what is observed there (70 R262), and the
invariants of the machine's state. -/

namespace Sys2Proof.Machine

/-- A launch from a state with BUSY = 0 (70 R262): the parameters, the memories' contents, the host program and the
schedule are new, the registers stay, and nothing has been read yet. No state is marked (log entry 6). -/
def State.launchFrom (s : State) (p : Platform) (fb src : Mem) (program : List Input) (turns : List Mover) : State :=
  { s with
    platform := p
    fbmem := fb
    srcmem := src
    inputs := program
    turns := turns
    reads := []
    scanned := [] }

/-- A launch from the reset state (70 R262). -/
def State.launch (p : Platform) (fb src : Mem) (program : List Input) (turns : List Mover) : State :=
  State.reset.launchFrom p fb src program turns

/-- The launches of 70 R262: those from the reset state, and those from any state with BUSY = 0. -/
def State.IsLaunch (l : State) : Prop :=
  ∃ (s : State) (p : Platform) (fb src : Mem) (program : List Input) (turns : List Mover),
    s.busy = false ∧ l = s.launchFrom p fb src program turns

/-- A run has ended: every move of the outside has been made and BUSY is 0 (70 R262). A run that faulted or was refused
has no such state. -/
def State.ended (s : State) : Bool := s.inputs.isEmpty && !s.busy

/-- The registers of 10 R25 in the order of their offsets. -/
def windowRegs : List Reg :=
  [.cmd, .arg0, .arg1, .arg2, .result, .status, .fbBase, .fbWidth, .fbHeight, .fbStride]

/-- What is observed at the end of a run (70 R262). -/
structure Observation where
  fbmem : Mem
  registers : List Word
  reads : List ReadValue
  deriving DecidableEq, Repr

/-- The observation of a state. -/
def State.observe (s : State) : Observation where
  fbmem := s.fbmem
  registers := windowRegs.map s.regValue
  reads := s.reads

/-- A run of `k` steps that reaches a state. -/
def Reaches (k : Nat) (s t : State) : Prop := Host.Core.run Sys2Proof.core k s = .next t

/-- Both memories are in their canonical forms. -/
def State.memoriesWf (s : State) : Bool := Mem.wf s.fbmem && Mem.wf s.srcmem

/-- While BUSY = 1, ACT holds what the live registers hold (10 R35). -/
def State.latchFollows (s : State) : Prop :=
  s.busy = true →
    s.act.a0 = s.arg0 ∧ s.act.a1 = s.arg1 ∧ s.act.a2 = s.arg2 ∧
    s.act.base = s.fbBase ∧ s.act.w = s.fbWidth ∧ s.act.h = s.fbHeight

/-- What a draw mode does to the value of one pixel (00 R14, 10 R22). -/
def applyBit (m : Mode) (b : BitVec 1) : BitVec 1 :=
  match m with
  | .black => 0#1
  | .white => 1#1
  | .invert => ~~~b
  | .noOp => b

/-- The value of the pixel `(x, y)` after a list of plots made in order, from its value before: each plot at that very
point applies its mode, every other leaves it (40 R100). -/
def pixelAfter (ps : List Plot) (x y : Int) (b : BitVec 1) : BitVec 1 :=
  ps.foldl (fun b p => if p.x = x ∧ p.y = y then applyBit p.mode b else b) b

/-- The y of the midpoint circle of radius `r` after `i` passes, with the decision variable in closed form,
`f = (x + 1)^2 + y^2 - y - r^2` at `x = i`: y falls by 1 exactly when `f >= 0` (42 R144). -/
def midpointY (r : Int) : Nat → Int
  | 0 => r
  | i + 1 =>
    let y := midpointY r i
    if 0 ≤ ((i : Int) + 1) ^ 2 + y ^ 2 - y - r ^ 2 then y - 1 else y

/-- Every source byte of the latched BITMAP is readable: its header and every data byte (45 R204). -/
def State.SourceReadable (s : State) : Prop :=
  ∃ b, readHeader s.srcRead s.act.source s.act.size2 s.act.bitmapWidth s.act.bitmapHeight = some b ∧
    ∀ n, n < b.height * b.rowBytes → (s.srcRead (s.act.source + b.data + n)).isSome = true

/-- An immediate that a coordinate field holds (30 R79). -/
def isCoord (v : Int) : Bool := decide (-32768 ≤ v) && decide (v < 32768)

/-- An immediate that an unsigned field of `n` values holds (30 R79, R80). -/
def isBelow (n v : Int) : Bool := decide (0 ≤ v) && decide (v < n)

/-- Every immediate of a line fits its field (30 R79, R80). -/
def Line.inRange : Line → Bool
  | .setPixel x y _ => isCoord x && isCoord y
  | .getPixel x y => isCoord x && isCoord y
  | .fill _ => true
  | .drawRow y x0 x1 _ => isCoord y && isCoord x0 && isCoord x1
  | .drawColumn x y0 y1 _ => isCoord x && isCoord y0 && isCoord y1
  | .drawLine x0 y0 x1 y1 _ => isCoord x0 && isCoord y0 && isCoord x1 && isCoord y1
  | .drawRect x0 y0 w h _ _ => isCoord x0 && isCoord y0 && isBelow 65536 w && isBelow 65536 h
  | .drawCircle cx cy radius _ _ => isCoord cx && isCoord cy && isBelow 65536 radius
  | .shift distance _ => isBelow 65536 distance
  | .bitmap x y source offset width height =>
    isCoord x && isCoord y && isBelow 4294967296 source && isBelow 65536 offset && isBelow 256 width && isBelow 256 height

/-- A latch carries the immediates of a line, each as the operand the command reads, and 0 in the unused half of an ARG
register the line writes (30 R79, R80, R83). -/
def Line.CarriedBy (l : Line) (a : Latch) : Prop :=
  match l with
  | .setPixel x y _ => a.coord0 = x ∧ a.coord1 = y
  | .getPixel x y => a.coord0 = x ∧ a.coord1 = y
  | .fill _ => True
  | .drawRow y x0 x1 _ => a.coord0 = y ∧ a.coord1 = x0 ∧ a.coord2 = x1 ∧ a.coord3 = 0
  | .drawColumn x y0 y1 _ => a.coord0 = x ∧ a.coord1 = y0 ∧ a.coord2 = y1 ∧ a.coord3 = 0
  | .drawLine x0 y0 x1 y1 _ => a.coord0 = x0 ∧ a.coord1 = y0 ∧ a.coord2 = x1 ∧ a.coord3 = y1
  | .drawRect x0 y0 w h _ _ => a.coord0 = x0 ∧ a.coord1 = y0 ∧ (a.size2 : Int) = w ∧ (a.size3 : Int) = h
  | .drawCircle cx cy radius _ _ => a.coord0 = cx ∧ a.coord1 = cy ∧ (a.size2 : Int) = radius ∧ a.size3 = 0
  | .shift distance _ => (a.size0 : Int) = distance ∧ a.coord1 = 0
  | .bitmap x y source offset width height =>
    a.coord0 = x ∧ a.coord1 = y ∧ (a.source : Int) = source ∧ (a.size2 : Int) = offset ∧
      (a.bitmapWidth : Int) = width ∧ (a.bitmapHeight : Int) = height

/-- The value of the bit at column `x`, row `y` of the latched command's framebuffer (10 R22). -/
def State.pixelAt (s : State) (x y : Nat) : BitVec 1 := s.act.geom.pixel s.fbmem x y

/-- `t` is `s` after a completed command that drew: BUSY is 0, nothing but FBMEM differs otherwise, the pixel `(x, y)` of
the framebuffer went from `b` to `f x y b`, the padding columns (10 R23) and every byte outside the region (20 R51) are
as they were. -/
def Redrawn (s t : State) (f : Int → Int → BitVec 1 → BitVec 1) : Prop :=
  t = { s with busy := false, fbmem := t.fbmem } ∧
  (∀ x y, x < s.act.geom.w → y < s.act.geom.h → t.pixelAt x y = f x y (s.pixelAt x y)) ∧
  (∀ x y, s.act.geom.w ≤ x → x < 8 * s.act.geom.stride → y < s.act.geom.h → t.pixelAt x y = s.pixelAt x y) ∧
  (∀ a, s.act.geom.inRegion a = false → Mem.read t.fbmem a = Mem.read s.fbmem a)

end Sys2Proof.Machine
end

