-- ==== Sys2Proof/Certificates/Slice0/Obligations.lean ====
section
/-! DEFINITION. The statements for the provers, by the spec's files: encoding, the step, the commands, the machine's
invariants and whole-machine rules, the host's side, and the laws and byte methods the spec states. -/

open Sys2Proof Sys2Proof.Machine

/-! ### Encoding (spec/30_encoding.md) -/

/-- Decode and encode are inverse both ways: a word decodes to a command exactly when it is that command's word
(30 R71, R73 to R76). -/
def Obligations.DecodeInvertsEncode : Prop :=
  ∀ (v : Word) (i : Instr), decode v = .ok i ↔ encode i = v

/-- 30 R76: legality by the fields an opcode uses is legality by the mask and match table, legal words are the words that
decode, and no word matches two rows. -/
def Obligations.LegalWordsMatchOneTableRow : Prop :=
  ∀ v : Word,
    (WellFormed.legal v = true ↔ ∃ r ∈ rows, v &&& r.mask = r.bits) ∧
    (WellFormed.legal v = true ↔ ∃ i, decode v = .ok i) ∧
    (rows.filter fun r => r.accepts v).length ≤ 1

/-- Which name an illegal word is rejected by: OP 0xA to 0xF, or a must-be-zero bit (30 R77). -/
def Obligations.IllegalWordsRejectedByName : Prop :=
  ∀ v : Word,
    (decode v = .error .reservedOpcode ↔ 10 ≤ (v.extractLsb' 0 4).toNat) ∧
    (decode v = .error .mustBeZero ↔ (v.extractLsb' 0 4).toNat < 10 ∧ WellFormed.legal v = false)

/-- Command words that 95_test_vectors.md writes out decode to the commands they are listed for. -/
def Obligations.SampleWordsDecode : Prop :=
  decode 0x00000010#32 = .ok (.setPixel .white) ∧
  decode 0x00000001#32 = .ok .getPixel ∧
  decode 0x00000022#32 = .ok (.fill .invert) ∧
  decode 0x00000013#32 = .ok (.drawRow .white) ∧
  decode 0x00000024#32 = .ok (.drawColumn .invert) ∧
  decode 0x00000035#32 = .ok (.drawLine .noOp) ∧
  decode 0x00000146#32 = .ok (.drawRect .black true .white) ∧
  decode 0x00000357#32 = .ok (.drawCircle .white true .noOp) ∧
  decode 0x00003008#32 = .ok (.shift .right) ∧
  decode 0x00000009#32 = .ok .bitmap

/-- 30 R79, R80 and 00 R12: each operand, as an integer congruent to its field and in its range: coordinates signed 16
bits, sizes unsigned 16 bits, the bitmap's width and height unsigned 8 bits. -/
def Obligations.OperandsAreTheirFields : Prop :=
  ∀ a : Latch,
    ((-32768 ≤ a.coord0 ∧ a.coord0 < 32768) ∧ a.coord0 % 65536 = (a.a0.toNat : Int) % 65536) ∧
    ((-32768 ≤ a.coord1 ∧ a.coord1 < 32768) ∧ a.coord1 % 65536 = (a.a0.toNat : Int) / 65536) ∧
    ((-32768 ≤ a.coord2 ∧ a.coord2 < 32768) ∧ a.coord2 % 65536 = (a.a1.toNat : Int) % 65536) ∧
    ((-32768 ≤ a.coord3 ∧ a.coord3 < 32768) ∧ a.coord3 % 65536 = (a.a1.toNat : Int) / 65536) ∧
    a.size0 = a.a0.toNat % 65536 ∧ a.size2 = a.a1.toNat % 65536 ∧ a.size3 = a.a1.toNat / 65536 ∧
    a.bitmapWidth = a.a1.toNat / 65536 % 256 ∧ a.bitmapHeight = a.a1.toNat / 16777216 ∧ a.source = a.a2.toNat

/-! ### The step (20 R59, 30 R78) -/

/-- A step runs the decoded command. While BUSY = 1 and it is the engine's turn, or the outside has nothing left to do, a
step is the latched command's engine step; around it the step only uses up the entry of the schedule. A word that decodes,
placed by `withFetchWord`, is the very next step's command, with the operand registers and the geometry of the state it
was placed in. With BUSY = 0 and nothing to come from outside a step changes nothing (60 R234). -/
def Obligations.StepRunsLatchedCommand : Prop :=
  (∀ s : State, s.busy = true → (s.inputs = [] ∨ s.turns.head? ≠ some .outside) →
    step s = exec s.act.cmd { s with turns := s.turns.tail }) ∧
  (∀ (s : State) (nbits w : Nat) (i : Instr), decodeTableWord nbits w = some i →
    step (s.withFetchWord nbits w) = exec i (s.accept i)) ∧
  (∀ s : State, s.busy = false → s.inputs = [] → step s = .next s)

/-- 30 R78 at a host write of CMD, in the order of 60 R225: OVERRUN while busy, else ILLEGAL for an illegal word, else the
command is latched with the operand registers and the geometry, and BUSY becomes 1. Nothing else changes. -/
def Obligations.CmdWriteAcceptsOrReports : Prop :=
  ∀ (s : State) (v : Word),
    (s.busy = true → s.regWrite .cmd v = { s with overrun := true }) ∧
    (s.busy = false → WellFormed.legal v = false → s.regWrite .cmd v = { s with illegal := true }) ∧
    (s.busy = false → WellFormed.legal v = true → ∃ i, encode i = v ∧
      s.regWrite .cmd v =
        { s with busy := true, act := ⟨i, s.arg0, s.arg1, s.arg2, s.fbBase, s.fbWidth, s.fbHeight⟩ })

/-- A host write of a legal word to CMD while BUSY = 0, made by a step, and the engine step after it: the second step is
the command's, on the operands and the geometry the registers held at the first (30 R78, 10 R35). -/
def Obligations.AcceptedCommandRunsNext : Prop :=
  ∀ (s : State) (v : Word) (i : Instr) (rest : List Input),
    s.busy = false → decode v = .ok i → s.inputs = writeReg s.platform .cmd v :: rest →
    (rest = [] ∨ s.turns.head? ≠ some .outside) →
    ∃ t, step s = .next t ∧ t = { s.accept i with inputs := rest } ∧
      step t = exec i { t with turns := s.turns.tail }

/-- 20 R52: with a non-empty region that reaches past 2^32 or is not mapped, every command faults; with an empty region
none does so, and one that completes has changed no byte. -/
def Obligations.InvalidRegionFaults : Prop :=
  ∀ (i : Instr) (s : State),
    (0 < s.act.geom.bytes →
      (2 ^ 32 < s.act.geom.base + s.act.geom.bytes ∨
        fbMapped s.platform s.act.geom.base s.act.geom.bytes = false) →
      exec i s = .fault .fbUnmapped) ∧
    (s.act.geom.bytes = 0 →
      exec i s ≠ .fault .fbUnmapped ∧ ∀ t, exec i s = .next t → t.fbmem = s.fbmem)

/-! ### The framebuffer (10 R20 to R23, 40_framebuffer.md) -/

/-- 10 R22 with R20 and R21: the value of a pixel as a number: byte `y * ceil(W/8) + x // 8` of the region, shifted right
by `7 - x mod 8`, modulo 2. -/
def Obligations.PixelIsItsAddressedBit : Prop :=
  ∀ (g : Geom) (m : Mem) (x y : Nat),
    (g.pixel m x y).toNat =
      (Mem.read m (g.base + (y * ((g.w + 7) / 8) + x / 8))).toNat / 2 ^ (7 - x % 8) % 2

/-- 40 R100: one plot acts on its own pixel by its mode and on nothing else, a point outside the framebuffer and NoOp on
nothing at all; twice White or Black is once, twice Invert is nothing; plots in one mode commute. -/
def Obligations.PlotActsOnOnePixel : Prop :=
  ∀ (g : Geom) (m : Mem), Mem.wf m = true → g.base + g.bytes ≤ 2 ^ 32 →
    (∀ p : Plot, g.contains p.x p.y = false ∨ p.mode = .noOp → plotOne g m p = m) ∧
    (∀ (p : Plot) (x y : Nat), x < 8 * g.stride → y < g.h →
      g.pixel (plotOne g m p) x y =
        if p.x = x ∧ p.y = y ∧ x < g.w then applyBit p.mode (g.pixel m x y) else g.pixel m x y) ∧
    (∀ (p : Plot) (a : Nat), Mem.read (plotOne g m p) a ≠ Mem.read m a →
      a = g.base + g.index p.x.toNat p.y.toNat) ∧
    (∀ p : Plot, p.mode = .white ∨ p.mode = .black → plotOne g (plotOne g m p) p = plotOne g m p) ∧
    (∀ p : Plot, p.mode = .invert → plotOne g (plotOne g m p) p = m) ∧
    (∀ p q : Plot, p.mode = q.mode → plotOne g (plotOne g m p) q = plotOne g (plotOne g m q) p)

/-- SET_PIXEL completes: the pixel (H0, H1) takes the mode, and nothing else changes but BUSY (40 R101). -/
def Obligations.SetPixelDrawsItsPixel : Prop :=
  ∀ (m : Mode) (s : State), s.memoriesWf = true → s.regionValid = true →
    ∃ t, exec (.setPixel m) s = .next t ∧
      Redrawn s t fun x y b => if x = s.act.coord0 ∧ y = s.act.coord1 then applyBit m b else b

/-- GET_PIXEL completes: RESULT takes the value of 40 R102, a free bit exactly for a negative coordinate below both upper
bounds under NEG_READ = draw, and nothing else changes but BUSY. -/
def Obligations.GetPixelReadsIntoResult : Prop :=
  ∀ s : State, s.regionValid = true →
    ∃ r d, exec .getPixel s = .next { s with busy := false, result := r, draws := d } ∧
      ((s.act.geom.w : Int) ≤ s.act.coord0 ∨ (s.act.geom.h : Int) ≤ s.act.coord1 → r = 0#1 ∧ d = s.draws) ∧
      (s.act.coord0 < s.act.geom.w → s.act.coord1 < s.act.geom.h → s.act.coord0 < 0 ∨ s.act.coord1 < 0 →
        (s.platform.negRead = .harden → r = 0#1 ∧ d = s.draws) ∧
        (s.platform.negRead = .draw → r = Config.freeBit s.draws ∧ d = s.draws + 1)) ∧
      (∀ x y : Nat, s.act.coord0 = x → s.act.coord1 = y → x < s.act.geom.w → y < s.act.geom.h →
        r = s.pixelAt x y ∧ d = s.draws)

/-- FILL completes: every byte of the region, padding bits too, is cleared, set, toggled or left, and nothing else changes
but BUSY (40 R103). -/
def Obligations.FillWritesEveryByte : Prop :=
  ∀ (m : Mode) (s : State), s.memoriesWf = true → s.regionValid = true →
    ∃ t, exec (.fill m) s = .next t ∧ t = { s with busy := false, fbmem := t.fbmem } ∧
      (∀ i, i < s.act.geom.bytes →
        Mem.read t.fbmem (s.act.geom.base + i) =
          match m with
          | .black => 0x00#8
          | .white => 0xFF#8
          | .invert => ~~~(Mem.read s.fbmem (s.act.geom.base + i))
          | .noOp => Mem.read s.fbmem (s.act.geom.base + i)) ∧
      (∀ a, s.act.geom.inRegion a = false → Mem.read t.fbmem a = Mem.read s.fbmem a)

/-- 40 R104, its three laws at the level of whole commands on one framebuffer: White then GET_PIXEL reads 1 and Black then
GET_PIXEL reads 0 at an in-bounds pixel, twice SET_PIXEL Invert restores FBMEM, and FILL Black then FILL Invert leaves the
memory that FILL White leaves. -/
def Obligations.FrameBufferLaws : Prop :=
  ∀ s : State, s.memoriesWf = true → s.regionValid = true →
    (∀ x y : Nat, s.act.coord0 = x → s.act.coord1 = y → x < s.act.geom.w → y < s.act.geom.h →
      (∃ t u, exec (.setPixel .white) s = .next t ∧ exec .getPixel t = .next u ∧ u.result = 1#1) ∧
      (∃ t u, exec (.setPixel .black) s = .next t ∧ exec .getPixel t = .next u ∧ u.result = 0#1)) ∧
    (∃ t u, exec (.setPixel .invert) s = .next t ∧ exec (.setPixel .invert) t = .next u ∧ u.fbmem = s.fbmem) ∧
    (∃ t u v, exec (.fill .black) s = .next t ∧ exec (.fill .invert) t = .next u ∧ exec (.fill .white) s = .next v ∧
      u.fbmem = v.fbmem)

/-! ### Spans, lines, circles, rectangles (41_span.md, 42_raster.md, 43_rect.md) -/

/-- DRAW_ROW completes and acts on exactly the pixels of row H0 with columns between H1 and H2, both included, in either
order, each once (41 R120, R121, R125). -/
def Obligations.DrawRowDrawsTheInclusiveSpan : Prop :=
  ∀ (m : Mode) (s : State), s.memoriesWf = true → s.regionValid = true →
    ∃ t, exec (.drawRow m) s = .next t ∧
      Redrawn s t fun x y b =>
        if y = s.act.coord0 ∧ min s.act.coord1 s.act.coord2 ≤ x ∧ x ≤ max s.act.coord1 s.act.coord2 then applyBit m b
        else b

/-- DRAW_COLUMN completes and acts on exactly the pixels of column H0 with rows between H1 and H2, both included, each
once (41 R123, R124). -/
def Obligations.DrawColumnDrawsTheInclusiveSpan : Prop :=
  ∀ (m : Mode) (s : State), s.memoriesWf = true → s.regionValid = true →
    ∃ t, exec (.drawColumn m) s = .next t ∧
      Redrawn s t fun x y b =>
        if x = s.act.coord0 ∧ min s.act.coord1 s.act.coord2 ≤ y ∧ y ≤ max s.act.coord1 s.act.coord2 then applyBit m b
        else b

/-- 42 R142: for distinct endpoints the line loop ends after exactly `max(dx, dy) + 1` passes (more passes allowed change
nothing), visits distinct points, each at most 1 away in each coordinate from the one before, from the start to the
terminal endpoint; with the first plot that makes `max(dx, dy) + 2` plots, and one plot for coincident endpoints. It rests
on log entry 2 (PRESUMED, K1): the loop's two comparisons are general knowledge of the spec. -/
def Obligations.LineLoopEndsAtTheEndpoint : Prop :=
  ∀ x0 y0 x1 y1 : Int,
    (¬(x0 = x1 ∧ y0 = y1) →
      (linePoints x0 y0 x1 y1).length = (max |x1 - x0| |y1 - y0|).toNat + 1 ∧
      (∀ n, linePasses (lineParams x0 y0 x1 y1) ≤ n →
        lineLoop (lineParams x0 y0 x1 y1) n ⟨x0, y0, |x1 - x0| - |y1 - y0|⟩ = linePoints x0 y0 x1 y1) ∧
      (linePoints x0 y0 x1 y1).Nodup ∧
      (linePoints x0 y0 x1 y1).IsChain (fun p q => |q.1 - p.1| ≤ 1 ∧ |q.2 - p.2| ≤ 1) ∧
      (linePoints x0 y0 x1 y1).head? = some (x0, y0) ∧
      (linePoints x0 y0 x1 y1).getLast? = some (x1, y1) ∧
      ∀ m, (line x0 y0 x1 y1 m).length = (max |x1 - x0| |y1 - y0|).toNat + 2) ∧
    (x0 = x1 → y0 = y1 → ∀ m, (line x0 y0 x1 y1 m).length = 1)

/-- DRAW_LINE completes: for distinct endpoints every point of the line takes the mode once and the terminal endpoint
twice, so that under Invert it is unchanged; coincident endpoints are one pixel, once (42 R140, R141, R143). The second clause
gives each point from the one before, apart from the loop: `a` columns and `b` rows from the start the error is
`(b + 1) dx - (a + 1) dy`, and x and y step where twice the error is above `-dy` and below `dx`. It rests on log entry 2
(PRESUMED, K1): the two comparisons are general knowledge of the spec. -/
def Obligations.DrawLineTogglesItsEndpointTwice : Prop :=
  (∀ x0 y0 x1 y1 : Int, (linePoints x0 y0 x1 y1).IsChain fun p q =>
    let e2 := 2 * ((|p.2 - y0| + 1) * |x1 - x0| - (|p.1 - x0| + 1) * |y1 - y0|)
    q.1 = p.1 + (if -|y1 - y0| < e2 then if x0 < x1 then 1 else -1 else 0) ∧
    q.2 = p.2 + (if e2 < |x1 - x0| then if y0 < y1 then 1 else -1 else 0)) ∧
  ∀ (m : Mode) (s : State), s.memoriesWf = true → s.regionValid = true →
    ∃ t, exec (.drawLine m) s = .next t ∧
      Redrawn s t fun x y b =>
        if s.act.coord0 = s.act.coord2 ∧ s.act.coord1 = s.act.coord3 then
          if x = s.act.coord0 ∧ y = s.act.coord1 then applyBit m b else b
        else if x = s.act.coord2 ∧ y = s.act.coord3 then applyBit m (applyBit m b)
        else if (x, y) ∈ linePoints s.act.coord0 s.act.coord1 s.act.coord2 s.act.coord3 then applyBit m b
        else b

/-- 42 R148: the circle loop of radius `r` makes at most `r` passes (more passes allowed change nothing), none for
`r <= 1` and at least one for `r >= 2`; a pass without a fill makes eight plots, one with a fill at most four row spans. -/
def Obligations.CircleLoopMakesAtMostRadiusPasses : Prop :=
  (∀ r : Nat,
    (circlePasses r).length ≤ r ∧
    (∀ n, r ≤ n → circleLoop n (circleStart r) = circlePasses r) ∧
    (circlePasses r = [] ↔ r ≤ 1)) ∧
  (∀ cx cy x y m, (octantPoints cx cy x y m).length = 8) ∧
  (∀ cx cy before after fm, ∃ spans : List (Int × Int × Int), spans.length ≤ 4 ∧
    circleSpans cx cy before after fm = spans.flatMap fun q => spanRow q.1 q.2.1 q.2.2 fm)

/-- DRAW_CIRCLE completes: each pixel takes, in order, the plots of the circle of centre (H0, H1) and radius H2 that fall
on it, for an outline and for every fill mode; FM has no effect when FE = 0 (42 R144, R145, 30 R74). The first clause says
which plots those are, apart from the loop: there are as many passes as x + 1 < y allows, in each of which x grows by 1 and
y falls by 1 exactly when `f = (x + 1)^2 + y^2 - y - r^2` is not negative; they plot the eight points of 42 R146 after the
four cardinals or, with a fill, after the centre span the spans at `cy ± y` when y fell and those at `cy ± x`. It rests on
log entry 2 (PRESUMED, K2): the set of the eight points is general knowledge of the spec. -/
def Obligations.DrawCircleMakesItsPlots : Prop :=
  (∀ r : Nat, ∃ n : Nat,
    (∀ i : Nat, i < n → (i : Int) + 1 < midpointY r i) ∧ midpointY r n ≤ (n : Int) + 1 ∧
    ((circlePasses r).map fun p => (p.1.x, p.1.y, p.1.f)) =
      (List.range n).map (fun (i : Nat) =>
        ((i : Int), midpointY r i, ((i : Int) + 1) ^ 2 + midpointY r i ^ 2 - midpointY r i - (r : Int) ^ 2)) ∧
    ∀ (cx cy : Int) (m : Mode),
      circle cx cy r m none =
        [⟨cx, cy + r, m⟩, ⟨cx, cy - r, m⟩, ⟨cx + r, cy, m⟩, ⟨cx - r, cy, m⟩] ++
          (List.range n).flatMap (fun (i : Nat) =>
            let x : Int := (i : Int) + 1
            let y : Int := midpointY r (i + 1)
            [⟨cx + x, cy + y, m⟩, ⟨cx - x, cy + y, m⟩, ⟨cx + x, cy - y, m⟩, ⟨cx - x, cy - y, m⟩,
             ⟨cx + y, cy + x, m⟩, ⟨cx - y, cy + x, m⟩, ⟨cx + y, cy - x, m⟩, ⟨cx - y, cy - x, m⟩]) ∧
      ∀ fm : Mode, circle cx cy r m (some fm) =
        [⟨cx, cy + r, m⟩, ⟨cx, cy - r, m⟩, ⟨cx + r, cy, m⟩, ⟨cx - r, cy, m⟩] ++ spanRow cy (cx - r) (cx + r) fm ++
          (List.range n).flatMap (fun (i : Nat) =>
            let x : Int := (i : Int) + 1
            let y : Int := midpointY r (i + 1)
            (if y = midpointY r i then []
             else spanRow (cy + y) (cx - x) (cx + x) fm ++ spanRow (cy - y) (cx - x) (cx + x) fm) ++
            (spanRow (cy + x) (cx - y) (cx + y) fm ++ spanRow (cy - x) (cx - y) (cx + y) fm))) ∧
  ∀ (m : Mode) (fe : Bool) (fm : Mode) (s : State), s.memoriesWf = true → s.regionValid = true →
    ∃ t, exec (.drawCircle m fe fm) s = .next t ∧
      Redrawn s t (pixelAfter (circle s.act.coord0 s.act.coord1 s.act.size2 m (if fe then some fm else none)))

/-- The corner cases of 42 R145 for an outline of radius 0 and 1: radius 0 plots its centre four times, so that under
Invert nothing changes; radius 1 is the four cardinal points, once each. -/
def Obligations.SmallCirclesAreCardinalPoints : Prop :=
  ∀ (m fm : Mode) (s : State), s.memoriesWf = true → s.regionValid = true →
    (s.act.size2 = 0 → ∃ t, exec (.drawCircle m false fm) s = .next t ∧
      Redrawn s t fun x y b =>
        if m ≠ .invert ∧ x = s.act.coord0 ∧ y = s.act.coord1 then applyBit m b else b) ∧
    (s.act.size2 = 1 → ∃ t, exec (.drawCircle m false fm) s = .next t ∧
      Redrawn s t fun x y b =>
        if |x - s.act.coord0| + |y - s.act.coord1| = 1 then applyBit m b else b)

/-- DRAW_RECT completes for every fill operand: each pixel takes, in order, the plots of the outline or of the filled
rectangle that fall on it; FM has no effect when FE = 0 and M none when FE = 1 (43 R170, 30 R74). -/
def Obligations.DrawRectMakesItsPlots : Prop :=
  ∀ (m : Mode) (fe : Bool) (fm : Mode) (s : State), s.memoriesWf = true → s.regionValid = true →
    ∃ t, exec (.drawRect m fe fm) s = .next t ∧
      Redrawn s t (pixelAfter (if fe then rectFilled s.act.coord0 s.act.coord1 s.act.size2 s.act.size3 fm
        else rectOutline s.act.coord0 s.act.coord1 s.act.size2 s.act.size3 m))

/-- The outline covers the border of columns `x0 .. x0 + w` and rows `y0 .. y0 + h`, all degenerate cases included, in every
mode: each border pixel takes the mode once, and twice, so that under Invert it is unchanged, where a line of the outline
ends: the right end of the top and of the bottom row, the lower end of each side column when `h > 2` (a side column of one
row, `h = 2`, is plotted once), and the lower end of a rectangle with `w = 0 < h`. In a mode other than Invert the border
simply takes the mode (43 R170, R171). -/
def Obligations.RectOutlineCoversTheBorder : Prop :=
  ∀ (m fm : Mode) (s : State), s.memoriesWf = true → s.regionValid = true →
    ∃ t, exec (.drawRect m false fm) s = .next t ∧
      (Redrawn s t fun x y b =>
        if s.act.coord0 ≤ x ∧ x ≤ s.act.coord0 + s.act.size2 ∧ s.act.coord1 ≤ y ∧ y ≤ s.act.coord1 + s.act.size3 ∧
            (x = s.act.coord0 ∨ x = s.act.coord0 + s.act.size2 ∨ y = s.act.coord1 ∨ y = s.act.coord1 + s.act.size3)
        then
          if (0 < s.act.size2 ∧ x = s.act.coord0 + s.act.size2 ∧
                (y = s.act.coord1 ∨ y = s.act.coord1 + s.act.size3)) ∨
              (0 < s.act.size2 ∧ 2 < s.act.size3 ∧ y = s.act.coord1 + s.act.size3 - 1) ∨
              (s.act.size2 = 0 ∧ 0 < s.act.size3 ∧ y = s.act.coord1 + s.act.size3)
          then applyBit m (applyBit m b) else applyBit m b
        else b) ∧
      (m ≠ .invert → Redrawn s t fun x y b =>
        if s.act.coord0 ≤ x ∧ x ≤ s.act.coord0 + s.act.size2 ∧ s.act.coord1 ≤ y ∧ y ≤ s.act.coord1 + s.act.size3 ∧
            (x = s.act.coord0 ∨ x = s.act.coord0 + s.act.size2 ∨ y = s.act.coord1 ∨ y = s.act.coord1 + s.act.size3)
        then applyBit m b else b)

/-- 43 R172: a filled rectangle is `h` rows from `y0`, each the inclusive span `[x0, x0 + w]`, in the fill mode, each pixel
once, and the mode M has no effect. -/
def Obligations.FilledRectCoversItsRows : Prop :=
  ∀ (m fm : Mode) (s : State), s.memoriesWf = true → s.regionValid = true →
    ∃ t, exec (.drawRect m true fm) s = .next t ∧
      Redrawn s t fun x y b =>
        if s.act.coord0 ≤ x ∧ x ≤ s.act.coord0 + s.act.size2 ∧ s.act.coord1 ≤ y ∧ y < s.act.coord1 + s.act.size3
        then applyBit fm b else b

/-! ### Scrolling and blitting (44_scroll.md, 45_blit.md) -/

/-- SHIFT completes: bit `c` of row `r`, padding columns too, takes the bit of row `r ± d` or of column `c ± d`, or 0 when
there is none; nothing outside the region changes, and nothing else but BUSY (44 R181 to R185). -/
def Obligations.ShiftMovesEveryBit : Prop :=
  ∀ (dir : Dir) (s : State), s.memoriesWf = true → s.regionValid = true →
    ∃ t, exec (.shift dir) s = .next t ∧ t = { s with busy := false, fbmem := t.fbmem } ∧
      (∀ r c, r < s.act.geom.h → c < 8 * s.act.geom.stride →
        t.pixelAt c r =
          match dir with
          | .up => if r + s.act.size0 < s.act.geom.h then s.pixelAt c (r + s.act.size0) else 0#1
          | .down => if s.act.size0 ≤ r then s.pixelAt c (r - s.act.size0) else 0#1
          | .left => if c + s.act.size0 < 8 * s.act.geom.stride then s.pixelAt (c + s.act.size0) r else 0#1
          | .right => if s.act.size0 ≤ c then s.pixelAt (c - s.act.size0) r else 0#1) ∧
      (∀ a, s.act.geom.inRegion a = false → Mem.read t.fbmem a = Mem.read s.fbmem a)

/-- 44 R187: Left by `n` then Right by `n` keeps each row bit `c >= n` and clears the others; Up by `n` then Down by `n`
keeps each row `r >= n` and clears the others. -/
def Obligations.ShiftRoundTrip : Prop :=
  ∀ s : State, s.memoriesWf = true → s.regionValid = true →
    (∃ t u, exec (.shift .left) s = .next t ∧ exec (.shift .right) t = .next u ∧
      ∀ r c, r < s.act.geom.h → c < 8 * s.act.geom.stride →
        u.pixelAt c r = if s.act.size0 ≤ c then s.pixelAt c r else 0#1) ∧
    (∃ t u, exec (.shift .up) s = .next t ∧ exec (.shift .down) t = .next u ∧
      ∀ r k, r < s.act.geom.h → k < s.act.geom.stride →
        Mem.read u.fbmem (s.act.geom.base + (r * s.act.geom.stride + k)) =
          if s.act.size0 ≤ r then Mem.read s.fbmem (s.act.geom.base + (r * s.act.geom.stride + k)) else 0x00#8)

/-- 45 R201: each zero operand consumes the next header byte, width first, and an unreadable one leaves no header (20 R53);
`rd` is `SrcRead`. -/
def Obligations.HeaderTakesZeroOperands : Prop :=
  ∀ (rd : Nat → Option Byte) (source offset width height : Nat),
    (width ≠ 0 → height ≠ 0 → readHeader rd source offset width height = some ⟨width, height, offset⟩) ∧
    (width = 0 → height ≠ 0 → ∀ w : Byte, rd (source + offset) = some w →
      readHeader rd source offset width height = some ⟨w.toNat, height, offset + 1⟩) ∧
    (width ≠ 0 → height = 0 → ∀ h : Byte, rd (source + offset) = some h →
      readHeader rd source offset width height = some ⟨width, h.toNat, offset + 1⟩) ∧
    (width = 0 → height = 0 → ∀ w h : Byte, rd (source + offset) = some w → rd (source + offset + 1) = some h →
      readHeader rd source offset width height = some ⟨w.toNat, h.toNat, offset + 2⟩) ∧
    (width = 0 ∨ height = 0 → rd (source + offset) = none → readHeader rd source offset width height = none) ∧
    (width = 0 → height = 0 → rd (source + offset + 1) = none → readHeader rd source offset width height = none)

/-- BITMAP completes when its header and every data byte are readable: each pixel of the bitmap's rectangle takes the
source pixel, the rest is unchanged (45 R200, R202, R203). -/
def Obligations.BitmapCopiesItsSourcePixels : Prop :=
  ∀ (s : State) (b : BitmapHeader), s.memoriesWf = true → s.regionValid = true →
    readHeader s.srcRead s.act.source s.act.size2 s.act.bitmapWidth s.act.bitmapHeight = some b →
    (∀ n, n < b.height * ((b.width + 7) / 8) → (s.srcRead (s.act.source + b.data + n)).isSome = true) →
    ∃ t, exec .bitmap s = .next t ∧
      Redrawn s t fun x y v =>
        if s.act.coord0 ≤ x ∧ x < s.act.coord0 + b.width ∧ s.act.coord1 ≤ y ∧ y < s.act.coord1 + b.height then
          ((s.srcRead (s.act.source + b.data +
              ((y - s.act.coord1).toNat * ((b.width + 7) / 8) + (x - s.act.coord0).toNat / 8))).getD 0#8 >>>
            (7 - (x - s.act.coord0).toNat % 8)).setWidth 1
        else v

/-- An unreadable source byte, in the header or in the data, clipped or not, ends a BITMAP in SRC_UNREADABLE; no address
at or above 2^32 is readable (20 R53, 45 R204). -/
def Obligations.UnreadableSourceFaults : Prop :=
  ∀ s : State, s.regionValid = true →
    (∀ a, 2 ^ 32 ≤ a → s.srcRead a = none) ∧
    (s.act.bitmapWidth = 0 ∨ s.act.bitmapHeight = 0 → s.srcRead (s.act.source + s.act.size2) = none →
      exec .bitmap s = .fault .srcUnreadable) ∧
    (s.act.bitmapWidth = 0 → s.act.bitmapHeight = 0 → s.srcRead (s.act.source + s.act.size2 + 1) = none →
      exec .bitmap s = .fault .srcUnreadable) ∧
    (readHeader s.srcRead s.act.source s.act.size2 s.act.bitmapWidth s.act.bitmapHeight = none →
      exec .bitmap s = .fault .srcUnreadable) ∧
    (∀ b : BitmapHeader,
      readHeader s.srcRead s.act.source s.act.size2 s.act.bitmapWidth s.act.bitmapHeight = some b →
      (∃ n, n < b.height * ((b.width + 7) / 8) ∧ s.srcRead (s.act.source + b.data + n) = none) →
      exec .bitmap s = .fault .srcUnreadable)

/-- A second BITMAP of the same source at the same place changes nothing (45 R203). It rests on the assumptions of blind
spots B1 and B2: SRCMEM is not written and is not FBMEM (log entry 10). -/
def Obligations.BitmapIsIdempotent : Prop :=
  ∀ s t : State, s.memoriesWf = true → exec .bitmap s = .next t → exec .bitmap t = .next t

/-! ### What no command changes -/

/-- A completed command changes no byte outside its region, whatever its operands, and GET_PIXEL none at all (20 R51). -/
def Obligations.CommandsWriteOnlyTheirRegion : Prop :=
  ∀ (i : Instr) (s t : State), s.memoriesWf = true → exec i s = .next t →
    (∀ a, s.act.geom.inRegion a = false → Mem.read t.fbmem a = Mem.read s.fbmem a) ∧
    (i = .getPixel → t.fbmem = s.fbmem)

/-- A completed command ends with BUSY 0 and changes no register but RESULT, which only GET_PIXEL writes; no other flag,
latch, source byte or parameter changes (10 R27, R28, R37, 30 R78). -/
def Obligations.CommandsKeepTheRegisters : Prop :=
  ∀ (i : Instr) (s t : State), exec i s = .next t →
    t = { s with busy := false, fbmem := t.fbmem, result := t.result, draws := t.draws } ∧
    (i ≠ .getPixel → t.result = s.result ∧ t.draws = s.draws)

/-- No command but FILL and SHIFT changes a padding bit (10 R23). -/
def Obligations.PaddingKeptByPixelCommands : Prop :=
  ∀ (i : Instr) (s t : State), s.memoriesWf = true → exec i s = .next t →
    (∀ m, i ≠ .fill m) → (∀ dir, i ≠ .shift dir) →
    ∀ x y, s.act.geom.w ≤ x → x < 8 * s.act.geom.stride → y < s.act.geom.h → t.pixelAt x y = s.pixelAt x y

/-- What a command does depends on its latch, the platform, SRCMEM, the next free value and the bytes of its region alone:
two states that agree on those have the same outcome, a next state or the same fault, the same RESULT of a GET_PIXEL and
the same bytes in the region (10 R35, 20 R51). -/
def Obligations.CommandsReadOnlyTheirRegion : Prop :=
  ∀ (i : Instr) (s s' : State), s.memoriesWf = true → s'.memoriesWf = true →
    s.act = s'.act → s.platform = s'.platform → s.srcmem = s'.srcmem → s.draws = s'.draws →
    (∀ a, s.act.geom.inRegion a = true → Mem.read s.fbmem a = Mem.read s'.fbmem a) →
    (∀ t, exec i s = .next t →
      ∃ t', exec i s' = .next t' ∧ (i = .getPixel → t.result = t'.result) ∧
        ∀ a, s.act.geom.inRegion a = true → Mem.read t.fbmem a = Mem.read t'.fbmem a) ∧
    (∀ f, exec i s = .fault f → exec i s' = .fault f)

/-! ### Invariants and whole-machine rules -/

/-- Every step keeps both memories canonical: addresses 32-bit and strictly rising, no cell of 0x00. -/
def Obligations.StepKeepsMemoriesCanonical : Prop :=
  ∀ s t : State, s.memoriesWf = true → step s = .next t → t.memoriesWf = true

/-- 10 R35: every step keeps the latch, while BUSY = 1, equal to the live operand and geometry registers. -/
def Obligations.StepKeepsLatchEqualToRegisters : Prop :=
  ∀ s t : State, s.latchFollows → step s = .next t → t.latchFollows

/-- No step changes SRCMEM or a parameter of the platform (10 R38, 45 R204). That none at all does is the model's choice
(log entry 5), and rests on the assumption of blind spot B1: no agent writes SRCMEM (log entry 10). -/
def Obligations.StepKeepsSourceAndPlatform : Prop :=
  ∀ s t : State, step s = .next t → t.srcmem = s.srcmem ∧ t.platform = s.platform

/-- The reset state meets every invariant, is not busy, and reads 0 at every register of the window (70 R250). That its
memories list nothing is the model's choice (log entry 4). -/
def Obligations.ResetMeetsTheInvariants : Prop :=
  State.reset.memoriesWf = true ∧ State.reset.latchFollows ∧ State.reset.busy = false ∧
  (∀ r, State.reset.regValue r = 0#32) ∧ State.reset.fbmem = [] ∧ State.reset.srcmem = []

/-- ILLEGAL is set only by a step that writes an illegal word to CMD while BUSY = 0, and OVERRUN only by one that writes
CMD, ARG0 to ARG2 or the geometry while BUSY = 1 (10 R37, 60 R221, R222). -/
def Obligations.FlagsAreSetByTheirOneCause : Prop :=
  ∀ s t : State, step s = .next t →
    (s.illegal = false → t.illegal = true →
      ∃ addr v rest, s.nextMove = .outside (.regWrite addr 32 v) rest ∧
        regAccess s.platform addr 32 = .ok .cmd ∧ s.busy = false ∧ WellFormed.legal v = false) ∧
    (s.overrun = false → t.overrun = true →
      ∃ addr v rest r, s.nextMove = .outside (.regWrite addr 32 v) rest ∧
        regAccess s.platform addr 32 = .ok r ∧ s.busy = true ∧
        r ∈ [Reg.cmd, .arg0, .arg1, .arg2, .fbBase, .fbWidth, .fbHeight])

/-- A byte of FBMEM changes only by the engine inside its command's region, by a host byte write to that address, or by a
reset while busy inside the region (20 R51, R57, R60, 70 R251, R252, R257). It rests on the assumption that no other agent
writes FBMEM (log entry 10). -/
def Obligations.FbmemChangesOnlyByItsWriters : Prop :=
  ∀ (s t : State) (a : Nat), s.memoriesWf = true → step s = .next t → Mem.read t.fbmem a ≠ Mem.read s.fbmem a →
    (s.nextMove = .engine ∧ s.act.geom.inRegion a = true) ∨
    (∃ w v rest, s.nextMove = .outside (.fbWrite w 8 v) rest ∧ w.toNat = a ∧ s.inBusyRegion w = false) ∨
    (∃ rest, s.nextMove = .outside .reset rest ∧ s.busy = true ∧ s.act.geom.inRegion a = true)

/-- RESULT changes only at the end of a GET_PIXEL or by reset, and BUSY becomes 1 only by acceptance and 0 only by an
engine step or reset (10 R28, R29, 70 R261). -/
def Obligations.ResultAndBusyChangeOnlyByTheirEvents : Prop :=
  ∀ s t : State, step s = .next t →
    (t.result ≠ s.result →
      (s.nextMove = .engine ∧ s.act.cmd = .getPixel) ∨ ∃ rest, s.nextMove = .outside .reset rest) ∧
    (s.busy = false → t.busy = true →
      ∃ addr v rest, s.nextMove = .outside (.regWrite addr 32 v) rest ∧
        regAccess s.platform addr 32 = .ok .cmd ∧ WellFormed.legal v = true) ∧
    (s.busy = true → t.busy = false → s.nextMove = .engine ∨ ∃ rest, s.nextMove = .outside .reset rest)

/-- A poll loop ends: with `wait` next, a valid region and any command, the source of a BITMAP being readable, whatever the
schedule, the polls it grants the host are followed by the engine's step and the last poll, and the run is at BUSY = 0 with
the loop left (30 R84, 70 R259). That a schedule is finite is the model's choice (log entry 7) and the assumption of blind
spot B6 (log entry 10). -/
def Obligations.PollLoopEnds : Prop :=
  ∀ (s : State) (rest : List Input), s.busy = true → s.inputs = .wait :: rest → s.regionValid = true →
    (s.act.cmd = .bitmap → s.SourceReadable) →
    ∃ t, Reaches ((s.turns.takeWhile (· == .outside)).length + 2) s t ∧ t.busy = false ∧ t.inputs = rest

/-! ### The register window (10_state.md section 2, 60_exceptions.md) -/

/-- 10 R25 and R34 with 20 R56: every aligned 32-bit access at ENGINE_BASE + offset reaches the register the map gives for
that offset. -/
def Obligations.WindowFollowsTheRegisterMap : Prop :=
  ∀ (p : Platform) (offset : BitVec 6), offset.toNat % 4 = 0 →
    regAccess p (windowAddr p offset) 32 =
      .ok ([Reg.cmd, .arg0, .arg1, .arg2, .result, .status, .fbBase, .fbWidth, .fbHeight, .fbStride].getD
        (offset.toNat / 4) .reserved)

/-- 60 R224: a step in which the host makes a misaligned or non-32-bit access of the window, or an FBMEM access that is not
one byte, is refused. An address outside the window is refused too, which is the model's own (log entry 8). -/
def Obligations.OtherAccessesAreRefused : Prop :=
  ∀ (s : State) (rest : List Input) (addr v : Word) (bits : Nat),
    (s.nextMove = .outside (.regRead addr bits) rest ∨ s.nextMove = .outside (.regWrite addr bits v) rest →
      (addr.extractLsb' 6 26 ≠ s.platform.engineBlock → step s = .refused .outsideWindow) ∧
      (addr.extractLsb' 6 26 = s.platform.engineBlock → bits ≠ 32 → step s = .refused .regWidth) ∧
      (addr.extractLsb' 6 26 = s.platform.engineBlock → bits = 32 → addr.toNat % 4 ≠ 0 →
        step s = .refused .regMisaligned)) ∧
    (s.nextMove = .outside (.fbRead addr bits) rest ∨ s.nextMove = .outside (.fbWrite addr bits v) rest →
      bits ≠ 8 → step s = .refused .fbWidth)

/-- 10 R29: the fields of STATUS, the write that clears them whether busy or not, and a read without a side effect. -/
def Obligations.StatusReadsAndClears : Prop :=
  ∀ (s : State) (v : Word),
    (s.regValue .status).toNat = s.busy.toNat + 2 * s.illegal.toNat + 4 * s.overrun.toNat ∧
    s.regWrite .status v =
      { s with
        illegal := if v.getLsbD 1 then false else s.illegal
        overrun := if v.getLsbD 2 then false else s.overrun } ∧
    hostRegRead (windowAddr s.platform (offsetOf .status)) 32 s =
      .next { s with reads := s.reads ++ [.reg (s.regValue .status)] } ∧
    (State.reset.regValue .status) = 0#32

/-- 10 R27, R30 to R33 while BUSY = 0: each operand and base register reads back what was written, FB_WIDTH and FB_HEIGHT
its low 15 bits, and FB_STRIDE follows FB_WIDTH at once as ceil(W/8); a write changes its own register only. RESULT reads
its one bit, and CMD and the reserved offsets read 0 (10 R26, R28, R34). -/
def Obligations.RegistersReadBack : Prop :=
  ∀ s : State,
    (∀ v : Word, s.busy = false →
      s.regWrite .arg0 v = { s with arg0 := v } ∧ (s.regWrite .arg0 v).regValue .arg0 = v ∧
      s.regWrite .arg1 v = { s with arg1 := v } ∧ (s.regWrite .arg1 v).regValue .arg1 = v ∧
      s.regWrite .arg2 v = { s with arg2 := v } ∧ (s.regWrite .arg2 v).regValue .arg2 = v ∧
      s.regWrite .fbBase v = { s with fbBase := v } ∧ (s.regWrite .fbBase v).regValue .fbBase = v ∧
      s.regWrite .fbWidth v = { s with fbWidth := v.setWidth 15 } ∧
      ((s.regWrite .fbWidth v).regValue .fbWidth).toNat = v.toNat % 32768 ∧
      ((s.regWrite .fbWidth v).regValue .fbStride).toNat = (v.toNat % 32768 + 7) / 8 ∧
      s.regWrite .fbHeight v = { s with fbHeight := v.setWidth 15 } ∧
      ((s.regWrite .fbHeight v).regValue .fbHeight).toNat = v.toNat % 32768) ∧
    (s.regValue .result).toNat = s.result.toNat ∧ (s.regValue .fbStride).toNat = (s.fbWidth.toNat + 7) / 8 ∧
    s.regValue .cmd = 0#32 ∧ s.regValue .reserved = 0#32

/-- 60 R222: while BUSY = 1 a write to CMD, ARG0 to ARG2, FB_BASE, FB_WIDTH or FB_HEIGHT is dropped and sets OVERRUN, and
changes nothing else; a write to STATUS then is taken and sets no OVERRUN; writes to RESULT, FB_STRIDE and the reserved
offsets are ignored, busy or not. -/
def Obligations.BusyWritesAreDropped : Prop :=
  ∀ (s : State) (v : Word),
    (s.busy = true → ∀ r ∈ [Reg.cmd, .arg0, .arg1, .arg2, .fbBase, .fbWidth, .fbHeight],
      s.regWrite r v = { s with overrun := true }) ∧
    s.regWrite .status v = s.ackStatus v ∧ (s.overrun = false → (s.regWrite .status v).overrun = false) ∧
    (∀ r ∈ [Reg.result, .fbStride, .reserved], s.regWrite r v = s)

/-! ### FBMEM from outside, reset, and races (70_reset_and_hazards.md) -/

/-- 70 R257: a host byte write into the running command's region is HOST_RACE and a host byte read there a free value;
every other host access of FBMEM is an access of ordinary memory, backed or not, which is the model's reading
(log entry 9). -/
def Obligations.HostAccessOfBusyRegion : Prop :=
  ∀ (s : State) (a v : Word), s.memoriesWf = true →
    (s.busy = true → s.act.geom.inRegion a.toNat = true →
      hostFbWrite a 8 v s = .fault .hostRace ∧
      hostFbRead a 8 s =
        .next { s with reads := s.reads ++ [.byte (Config.freeByte s.draws)], draws := s.draws + 1 }) ∧
    (s.busy = false ∨ s.act.geom.inRegion a.toNat = false →
      hostFbRead a 8 s = .next { s with reads := s.reads ++ [.byte (Mem.read s.fbmem a.toNat)] } ∧
      ∃ t, hostFbWrite a 8 v s = .next t ∧ t = { s with fbmem := t.fbmem } ∧
        ∀ b, Mem.read t.fbmem b = if b = a.toNat then v.setWidth 8 else Mem.read s.fbmem b)

/-- A scanout read of the running command's region while BUSY = 1 gets a free byte and changes nothing of the block
(70 R256); any other gets the byte of memory, which is the model's reading (log entry 12). -/
def Obligations.ScanoutReadChangesNothing : Prop :=
  ∀ (s : State) (a : Word),
    (s.busy = true → s.act.geom.inRegion a.toNat = true →
      scanoutRead a s =
        .next { s with scanned := s.scanned ++ [Config.freeByte s.draws], draws := s.draws + 1 }) ∧
    (s.busy = false ∨ s.act.geom.inRegion a.toNat = false →
      scanoutRead a s = .next { s with scanned := s.scanned ++ [Mem.read s.fbmem a.toNat] })

/-- Reset with no command in progress: every register of the window reads 0, no command is in progress, and both memories
and the platform are as they were (70 R250, R251). That the surroundings, `inputs` to `draws`, stay too is the model's
choice (log entry 7). -/
def Obligations.IdleResetClearsOnlyRegisters : Prop :=
  ∀ s : State, s.busy = false →
    ∃ t, resetBlock s = .next t ∧ (∀ r, t.regValue r = 0#32) ∧ t.busy = false ∧
      t.fbmem = s.fbmem ∧ t.srcmem = s.srcmem ∧ t.platform = s.platform ∧ t.inputs = s.inputs ∧ t.turns = s.turns ∧
      t.reads = s.reads ∧ t.scanned = s.scanned ∧ t.draws = s.draws

/-- 70 R252: reset while BUSY = 1 replaces each byte of the abandoned command's region by a free value, each its own, and
changes no byte outside it; the registers read 0; with an invalid region it is FB_UNMAPPED. -/
def Obligations.BusyResetFreesTheRegion : Prop :=
  ∀ s : State, s.busy = true → s.memoriesWf = true →
    (s.regionValid = false → resetBlock s = .fault .fbUnmapped) ∧
    (s.regionValid = true → ∃ t, resetBlock s = .next t ∧ (∀ r, t.regValue r = 0#32) ∧ t.busy = false ∧
      (∀ i, i < s.act.geom.bytes →
        Mem.read t.fbmem (s.act.geom.base + i) = Config.freeByte (s.draws + i)) ∧
      (∀ a, s.act.geom.inRegion a = false → Mem.read t.fbmem a = Mem.read s.fbmem a) ∧
      t.draws = s.draws + s.act.geom.bytes)

/-- 70 R253: with W = H = 0 no command is FB_UNMAPPED, every command but BITMAP completes, one that completes changes no
byte, and GET_PIXEL reads 0 unless both coordinates are negative, then 0 or a free bit as NEG_READ says. -/
def Obligations.EmptyFramebufferCommandsTouchNothing : Prop :=
  ∀ (i : Instr) (s : State), s.act.w = 0#15 → s.act.h = 0#15 →
    exec i s ≠ .fault .fbUnmapped ∧ (i ≠ .bitmap → ∃ t, exec i s = .next t) ∧
    (∀ t, exec i s = .next t →
      t.fbmem = s.fbmem ∧
      (i = .getPixel → 0 ≤ s.act.coord0 ∨ 0 ≤ s.act.coord1 ∨ s.platform.negRead = .harden → t.result = 0#1) ∧
      (i = .getPixel → s.act.coord0 < 0 → s.act.coord1 < 0 → s.platform.negRead = .draw →
        t.result = Config.freeBit s.draws))

/-- The race of program P4 of 95_test_vectors.md: an operand write made without waiting lands when the engine's step comes
first and is dropped, setting OVERRUN, when it comes before the engine's step; either way the command completes, a BITMAP
if its source is readable. -/
def Obligations.OperandWriteRacesTheEngine : Prop :=
  ∀ (s : State) (v : Word), s.busy = true → s.regionValid = true → (s.act.cmd = .bitmap → s.SourceReadable) →
    s.inputs = [writeReg s.platform .arg0 v] →
    (s.turns = [.engine] → ∃ t, Reaches 2 s t ∧ t.ended = true ∧ t.arg0 = v ∧ t.overrun = s.overrun) ∧
    (s.turns = [.outside] → ∃ t, Reaches 2 s t ∧ t.ended = true ∧ t.arg0 = s.arg0 ∧ t.overrun = true)

/-! ### The assembler (30 R83) -/

/-- 30 R83: from an idle block the register writes of a line, made one a step, leave its command latched with its operand
words, whatever follows; and where its immediates fit their fields, the operands the command reads are those integers, an
unused half of an ARG register it writes being 0 (30 R79, R80). -/
def Obligations.AssembledLineLatchesItsCommand : Prop :=
  ∀ (l : Line) (s : State) (rest : List Input), s.busy = false →
    s.inputs = l.assemble s.platform ++ rest →
    ∃ t, Reaches (l.operands.length + 1) s t ∧ t.busy = true ∧ t.act.cmd = l.command ∧
      t.inputs = .wait :: rest ∧ t.fbmem = s.fbmem ∧
      (∀ v, (Reg.arg0, v) ∈ l.operands → t.act.a0 = v) ∧
      (∀ v, (Reg.arg1, v) ∈ l.operands → t.act.a1 = v) ∧
      (∀ v, (Reg.arg2, v) ∈ l.operands → t.act.a2 = v) ∧
      (l.inRange = true → l.CarriedBy t.act)

/-! ### The byte methods (41 R122, 44 R186, 45 R205) -/

/-- 41 R122: the byte method of DRAW_ROW, with the corrected right mask, leaves exactly the memory the per-pixel span
leaves. -/
def Obligations.RowByteMethodEqualsSpan : Prop :=
  ∀ (g : Geom) (m : Mem) (y x0 x1 : Int) (md : Mode), Mem.wf m = true → g.base + g.bytes ≤ 2 ^ 32 →
    rowByBytes g y x0 x1 md m = plotAll g (spanRow y x0 x1 md) m

/-- The Left and Right byte formulas of 44 R186 give every byte 44 R184 and R185 give, for every distance. -/
def Obligations.ShiftByteFormulasEqualBitShifts : Prop :=
  ∀ (g : Geom) (m : Mem) (d r k : Nat), r < g.h → k < g.stride →
    leftByBytes g m d r k = shiftByte .left g m d r k ∧
    rightByBytes g m d r k = shiftByte .right g m d r k

/-- The in-place Up and Down copies of 44 R186 leave the memory 44 R182 and R183 give, for a distance of at most half the
height, and with the clear pass for every distance. -/
def Obligations.InPlaceCopiesEqualRowShifts : Prop :=
  ∀ (g : Geom) (m : Mem) (d : Nat), Mem.wf m = true → g.base + g.bytes ≤ 2 ^ 32 →
    (2 * d ≤ g.h →
      upInPlace g d m =
        Mem.writeRange g.base (fun i => shiftByte .up g m d (i / g.stride) (i % g.stride)) g.bytes m ∧
      downInPlace g d m =
        Mem.writeRange g.base (fun i => shiftByte .down g m d (i / g.stride) (i % g.stride)) g.bytes m) ∧
    upByBytes g d m =
      Mem.writeRange g.base (fun i => shiftByte .up g m d (i / g.stride) (i % g.stride)) g.bytes m ∧
    downByBytes g d m =
      Mem.writeRange g.base (fun i => shiftByte .down g m d (i / g.stride) (i % g.stride)) g.bytes m

/-- The byte placement of 45 R205, clipped as 45 R203 clips, leaves exactly the memory the per-pixel copy leaves, wherever
the bitmap lies. -/
def Obligations.BlitByteMethodEqualsPixelCopy : Prop :=
  ∀ (g : Geom) (m : Mem) (x y : Int) (b : BitmapHeader) (data : List Byte), Mem.wf m = true →
    g.base + g.bytes ≤ 2 ^ 32 → blitByBytes g x y b data m = plotAll g (blit x y b data) m

/-! ### Launches and observations (70 R262) -/

/-- 70 R262: a launch, from the reset state or from any state with BUSY = 0, shows the bytes it was given, the registers of
the state it starts from (0 from reset) and no read, and has ended exactly when its program is empty. Each read a step makes
delivers its value to the host, no other step adds one, and an ended run stays as it is. -/
def Obligations.LaunchedRunsDeliverTheirReads : Prop :=
  (∀ (s : State) (p : Platform) (fb src : Mem) (program : List Input) (turns : List Mover), s.busy = false →
    (s.launchFrom p fb src program turns).observe = ⟨fb, windowRegs.map s.regValue, []⟩ ∧
    ((s.launchFrom p fb src program turns).ended = true ↔ program = []) ∧
    (State.launch p fb src program turns).IsLaunch ∧
    (State.launch p fb src program turns).observe = ⟨fb, List.replicate 10 0#32, []⟩) ∧
  (∀ s t : State, step s = .next t →
    t.reads = s.reads ++
      match s.nextMove with
      | .outside (.regRead addr bits) _ =>
        match regAccess s.platform addr bits with
        | .ok r => [.reg (s.regValue r)]
        | .error _ => []
      | .outside .wait _ => [.reg (s.regValue .status)]
      | .outside (.fbRead a _) _ =>
        [.byte (if s.inBusyRegion a then Config.freeByte s.draws else Mem.read s.fbmem a.toNat)]
      | _ => []) ∧
  (∀ s : State, s.ended = true → step s = .next s)
end

