-- ==== Sys2Proof/Laws/Memory.lean ====
section
/-! SUPPORT. The laws of memory: a read after a write, the canonical form kept by every operation, and equality of two
canonical memories that read the same. -/

namespace Sys2Proof.Machine

theorem Mem.find_nil (a : Nat) : Mem.find [] a = none := rfl

theorem Mem.find_cons (b : Nat) (v : Byte) (t : Mem) (a : Nat) :
    Mem.find ((b, v) :: t) a = if a = b then some v else Mem.find t a := rfl

@[simp] theorem Mem.read_nil (a : Nat) : Mem.read [] a = 0#8 := rfl

theorem Mem.read_cell (b : Nat) (v : Byte) (t : Mem) (a : Nat) :
    Mem.read ((b, v) :: t) a = if a = b then v else Mem.read t a := by
  unfold Mem.read
  rw [Mem.find_cons]
  split <;> rfl

/-- A list of cells is canonical from `lo` up: its addresses rise strictly from `lo` and no cell holds 0x00. -/
def Mem.Canon (lo : Nat) (m : Mem) : Prop := Mem.risingFrom lo m = true ∧ (m.all fun c => c.2 != 0#8) = true

theorem Mem.wf_iff (m : Mem) : Mem.wf m = true ↔ Mem.Canon 0 m := by simp [Mem.wf, Mem.Canon]

theorem Mem.canon_nil (lo : Nat) : Mem.Canon lo [] := ⟨rfl, rfl⟩

theorem Mem.canon_cell (lo b : Nat) (v : Byte) (t : Mem) :
    Mem.Canon lo ((b, v) :: t) ↔ lo ≤ b ∧ b < 2 ^ 32 ∧ v ≠ 0#8 ∧ Mem.Canon (b + 1) t := by
  simp only [Mem.Canon, Mem.risingFrom, List.all_cons, Bool.and_eq_true, decide_eq_true_eq, bne_iff_ne]
  tauto

theorem Mem.Canon.mono {lo lo' : Nat} {m : Mem} (h : Mem.Canon lo m) (hl : lo' ≤ lo) : Mem.Canon lo' m := by
  cases m with
  | nil => exact Mem.canon_nil _
  | cons c t =>
    obtain ⟨b, v⟩ := c
    rw [Mem.canon_cell] at h ⊢
    exact ⟨by omega, h.2⟩

/-- An address below the first that may be listed reads 0x00. -/
theorem Mem.Canon.read_below {lo : Nat} {m : Mem} (h : Mem.Canon lo m) {a : Nat} (ha : a < lo) : Mem.read m a = 0#8 := by
  induction m generalizing lo with
  | nil => rfl
  | cons c t ih =>
    obtain ⟨b, v⟩ := c
    rw [Mem.canon_cell] at h
    rw [Mem.read_cell, if_neg (by omega)]
    exact ih h.2.2.2 (by omega)

theorem Mem.read_cons (a : Nat) (v : Byte) {t : Mem} (h : Mem.Canon (a + 1) t) (c : Nat) :
    Mem.read (Mem.cons a v t) c = if c = a then v else Mem.read t c := by
  unfold Mem.cons
  split
  · subst v
    split
    · subst c; exact h.read_below (by omega)
    · rfl
  · exact Mem.read_cell ..

theorem Mem.canon_cons {lo a : Nat} (v : Byte) {t : Mem} (h : Mem.Canon (a + 1) t) (hl : lo ≤ a) (ha : a < 2 ^ 32) :
    Mem.Canon lo (Mem.cons a v t) := by
  unfold Mem.cons
  split
  · exact h.mono (by omega)
  · rename_i hv; exact (Mem.canon_cell ..).2 ⟨hl, ha, hv, h⟩

theorem Mem.Canon.write {lo a : Nat} {m : Mem} (h : Mem.Canon lo m) (hl : lo ≤ a) (ha : a < 2 ^ 32) (v : Byte) :
    Mem.Canon lo (Mem.write m a v) ∧ ∀ c, Mem.read (Mem.write m a v) c = if c = a then v else Mem.read m c := by
  induction m generalizing lo with
  | nil => exact ⟨Mem.canon_cons v (Mem.canon_nil _) hl ha, Mem.read_cons a v (Mem.canon_nil _)⟩
  | cons cell t ih =>
    obtain ⟨b, w⟩ := cell
    have hc := (Mem.canon_cell ..).1 h
    unfold Mem.write
    split
    · have ht : Mem.Canon (a + 1) ((b, w) :: t) := (Mem.canon_cell ..).2 ⟨by omega, hc.2⟩
      exact ⟨Mem.canon_cons v ht hl ha, Mem.read_cons a v ht⟩
    · split
      · subst b
        refine ⟨Mem.canon_cons v hc.2.2.2 hl ha, fun c => ?_⟩
        rw [Mem.read_cons a v hc.2.2.2, Mem.read_cell]
        split <;> rfl
      · obtain ⟨h1, h2⟩ := ih hc.2.2.2 (by omega)
        refine ⟨(Mem.canon_cell ..).2 ⟨hc.1, hc.2.1, hc.2.2.1, h1⟩, fun c => ?_⟩
        rw [Mem.read_cell, Mem.read_cell, h2]
        split
        · subst c; rw [if_neg (by omega)]
        · rfl

/-- A write keeps the canonical form. -/
theorem Mem.wf_write {m : Mem} (h : Mem.wf m = true) {a : Nat} (ha : a < 2 ^ 32) (v : Byte) :
    Mem.wf (Mem.write m a v) = true :=
  (Mem.wf_iff _).2 (((Mem.wf_iff _).1 h).write (Nat.zero_le _) ha v).1

/-- A read after a write: the value written there, and every other byte as before. -/
theorem Mem.read_write {m : Mem} (h : Mem.wf m = true) {a : Nat} (ha : a < 2 ^ 32) (v : Byte) (c : Nat) :
    Mem.read (Mem.write m a v) c = if c = a then v else Mem.read m c :=
  (((Mem.wf_iff _).1 h).write (Nat.zero_le _) ha v).2 c

theorem Mem.Canon.ext {lo : Nat} {m n : Mem} (hm : Mem.Canon lo m) (hn : Mem.Canon lo n)
    (h : ∀ a, Mem.read m a = Mem.read n a) : m = n := by
  induction m generalizing lo n with
  | nil =>
    cases n with
    | nil => rfl
    | cons c t =>
      obtain ⟨b, v⟩ := c
      have := h b
      rw [Mem.read_nil, Mem.read_cell, if_pos rfl] at this
      exact absurd this.symm ((Mem.canon_cell ..).1 hn).2.2.1
  | cons c t ih =>
    obtain ⟨b, v⟩ := c
    have hm' := (Mem.canon_cell ..).1 hm
    cases n with
    | nil =>
      have := h b
      rw [Mem.read_nil, Mem.read_cell, if_pos rfl] at this
      exact absurd this hm'.2.2.1
    | cons c' t' =>
      obtain ⟨b', v'⟩ := c'
      have hn' := (Mem.canon_cell ..).1 hn
      have hb : b = b' := by
        by_contra hne
        rcases Nat.lt_or_gt_of_ne hne with hlt | hgt
        · have := h b
          rw [Mem.read_cell, if_pos rfl,
            Mem.Canon.read_below (lo := b') ((Mem.canon_cell ..).2 ⟨le_refl _, hn'.2⟩) hlt] at this
          exact hm'.2.2.1 this
        · have := h b'
          rw [Mem.read_cell (b := b'), if_pos rfl,
            Mem.Canon.read_below (lo := b) ((Mem.canon_cell ..).2 ⟨le_refl _, hm'.2⟩) hgt] at this
          exact hn'.2.2.1 this.symm
      subst b'
      have hv : v = v' := by
        have := h b
        rwa [Mem.read_cell, if_pos rfl, Mem.read_cell, if_pos rfl] at this
      subst v'
      congr 1
      refine ih hm'.2.2.2 hn'.2.2.2 fun a => ?_
      by_cases hab : a = b
      · subst a
        rw [hm'.2.2.2.read_below (by omega), hn'.2.2.2.read_below (by omega)]
      · have := h a
        rwa [Mem.read_cell, if_neg hab, Mem.read_cell, if_neg hab] at this

/-- Two canonical memories that read the same at every address are the same list. -/
theorem Mem.ext_read {m n : Mem} (hm : Mem.wf m = true) (hn : Mem.wf n = true)
    (h : ∀ a, Mem.read m a = Mem.read n a) : m = n :=
  ((Mem.wf_iff _).1 hm).ext ((Mem.wf_iff _).1 hn) h

/-- `writeRange` keeps the canonical form, writes exactly its range and leaves every other byte. -/
theorem Mem.writeRange_spec {m : Mem} (h : Mem.wf m = true) (base : Nat) (f : Nat → Byte) {n : Nat}
    (hn : base + n ≤ 2 ^ 32) :
    Mem.wf (Mem.writeRange base f n m) = true ∧
      ∀ c, Mem.read (Mem.writeRange base f n m) c =
        if base ≤ c ∧ c < base + n then f (c - base) else Mem.read m c := by
  induction n with
  | zero => exact ⟨h, fun c => by rw [if_neg (by omega)]; rfl⟩
  | succ n ih =>
    obtain ⟨h1, h2⟩ := ih (by omega)
    refine ⟨Mem.wf_write h1 (by omega) _, fun c => ?_⟩
    rw [Mem.writeRange, Mem.read_write h1 (by omega), h2]
    by_cases hc : c = base + n
    · subst c; rw [if_pos rfl, if_pos (by omega)]; congr 1; omega
    · rw [if_neg hc]
      by_cases hr : base ≤ c ∧ c < base + n
      · rw [if_pos hr, if_pos (by omega)]
      · rw [if_neg hr, if_neg (by omega)]

end Sys2Proof.Machine
end

