-- ==== Sys2Proof/Laws/State.lean ====
section
/-! SUPPORT. One lemma per field per named update of State, each true by `rfl`, so that no proof unfolds an update. -/

namespace Sys2Proof.Machine

variable (s : State)

/-! ### `setIllegal` -/

@[simp] theorem State.setIllegal_arg0 : (s.setIllegal).arg0 = s.arg0 := rfl
@[simp] theorem State.setIllegal_arg1 : (s.setIllegal).arg1 = s.arg1 := rfl
@[simp] theorem State.setIllegal_arg2 : (s.setIllegal).arg2 = s.arg2 := rfl
@[simp] theorem State.setIllegal_result : (s.setIllegal).result = s.result := rfl
@[simp] theorem State.setIllegal_busy : (s.setIllegal).busy = s.busy := rfl
@[simp] theorem State.setIllegal_illegal : (s.setIllegal).illegal = true := rfl
@[simp] theorem State.setIllegal_overrun : (s.setIllegal).overrun = s.overrun := rfl
@[simp] theorem State.setIllegal_fbBase : (s.setIllegal).fbBase = s.fbBase := rfl
@[simp] theorem State.setIllegal_fbWidth : (s.setIllegal).fbWidth = s.fbWidth := rfl
@[simp] theorem State.setIllegal_fbHeight : (s.setIllegal).fbHeight = s.fbHeight := rfl
@[simp] theorem State.setIllegal_act : (s.setIllegal).act = s.act := rfl
@[simp] theorem State.setIllegal_fbmem : (s.setIllegal).fbmem = s.fbmem := rfl
@[simp] theorem State.setIllegal_srcmem : (s.setIllegal).srcmem = s.srcmem := rfl
@[simp] theorem State.setIllegal_platform : (s.setIllegal).platform = s.platform := rfl
@[simp] theorem State.setIllegal_inputs : (s.setIllegal).inputs = s.inputs := rfl
@[simp] theorem State.setIllegal_turns : (s.setIllegal).turns = s.turns := rfl
@[simp] theorem State.setIllegal_reads : (s.setIllegal).reads = s.reads := rfl
@[simp] theorem State.setIllegal_scanned : (s.setIllegal).scanned = s.scanned := rfl
@[simp] theorem State.setIllegal_draws : (s.setIllegal).draws = s.draws := rfl

/-! ### `setOverrun` -/

@[simp] theorem State.setOverrun_arg0 : (s.setOverrun).arg0 = s.arg0 := rfl
@[simp] theorem State.setOverrun_arg1 : (s.setOverrun).arg1 = s.arg1 := rfl
@[simp] theorem State.setOverrun_arg2 : (s.setOverrun).arg2 = s.arg2 := rfl
@[simp] theorem State.setOverrun_result : (s.setOverrun).result = s.result := rfl
@[simp] theorem State.setOverrun_busy : (s.setOverrun).busy = s.busy := rfl
@[simp] theorem State.setOverrun_illegal : (s.setOverrun).illegal = s.illegal := rfl
@[simp] theorem State.setOverrun_overrun : (s.setOverrun).overrun = true := rfl
@[simp] theorem State.setOverrun_fbBase : (s.setOverrun).fbBase = s.fbBase := rfl
@[simp] theorem State.setOverrun_fbWidth : (s.setOverrun).fbWidth = s.fbWidth := rfl
@[simp] theorem State.setOverrun_fbHeight : (s.setOverrun).fbHeight = s.fbHeight := rfl
@[simp] theorem State.setOverrun_act : (s.setOverrun).act = s.act := rfl
@[simp] theorem State.setOverrun_fbmem : (s.setOverrun).fbmem = s.fbmem := rfl
@[simp] theorem State.setOverrun_srcmem : (s.setOverrun).srcmem = s.srcmem := rfl
@[simp] theorem State.setOverrun_platform : (s.setOverrun).platform = s.platform := rfl
@[simp] theorem State.setOverrun_inputs : (s.setOverrun).inputs = s.inputs := rfl
@[simp] theorem State.setOverrun_turns : (s.setOverrun).turns = s.turns := rfl
@[simp] theorem State.setOverrun_reads : (s.setOverrun).reads = s.reads := rfl
@[simp] theorem State.setOverrun_scanned : (s.setOverrun).scanned = s.scanned := rfl
@[simp] theorem State.setOverrun_draws : (s.setOverrun).draws = s.draws := rfl

/-! ### `ackStatus` -/

@[simp] theorem State.ackStatus_arg0 (v : Word) : (s.ackStatus v).arg0 = s.arg0 := rfl
@[simp] theorem State.ackStatus_arg1 (v : Word) : (s.ackStatus v).arg1 = s.arg1 := rfl
@[simp] theorem State.ackStatus_arg2 (v : Word) : (s.ackStatus v).arg2 = s.arg2 := rfl
@[simp] theorem State.ackStatus_result (v : Word) : (s.ackStatus v).result = s.result := rfl
@[simp] theorem State.ackStatus_busy (v : Word) : (s.ackStatus v).busy = s.busy := rfl
@[simp] theorem State.ackStatus_illegal (v : Word) : (s.ackStatus v).illegal = (s.illegal && !v.getLsbD 1) := rfl
@[simp] theorem State.ackStatus_overrun (v : Word) : (s.ackStatus v).overrun = (s.overrun && !v.getLsbD 2) := rfl
@[simp] theorem State.ackStatus_fbBase (v : Word) : (s.ackStatus v).fbBase = s.fbBase := rfl
@[simp] theorem State.ackStatus_fbWidth (v : Word) : (s.ackStatus v).fbWidth = s.fbWidth := rfl
@[simp] theorem State.ackStatus_fbHeight (v : Word) : (s.ackStatus v).fbHeight = s.fbHeight := rfl
@[simp] theorem State.ackStatus_act (v : Word) : (s.ackStatus v).act = s.act := rfl
@[simp] theorem State.ackStatus_fbmem (v : Word) : (s.ackStatus v).fbmem = s.fbmem := rfl
@[simp] theorem State.ackStatus_srcmem (v : Word) : (s.ackStatus v).srcmem = s.srcmem := rfl
@[simp] theorem State.ackStatus_platform (v : Word) : (s.ackStatus v).platform = s.platform := rfl
@[simp] theorem State.ackStatus_inputs (v : Word) : (s.ackStatus v).inputs = s.inputs := rfl
@[simp] theorem State.ackStatus_turns (v : Word) : (s.ackStatus v).turns = s.turns := rfl
@[simp] theorem State.ackStatus_reads (v : Word) : (s.ackStatus v).reads = s.reads := rfl
@[simp] theorem State.ackStatus_scanned (v : Word) : (s.ackStatus v).scanned = s.scanned := rfl
@[simp] theorem State.ackStatus_draws (v : Word) : (s.ackStatus v).draws = s.draws := rfl

/-! ### `finish` -/

@[simp] theorem State.finish_arg0 : (s.finish).arg0 = s.arg0 := rfl
@[simp] theorem State.finish_arg1 : (s.finish).arg1 = s.arg1 := rfl
@[simp] theorem State.finish_arg2 : (s.finish).arg2 = s.arg2 := rfl
@[simp] theorem State.finish_result : (s.finish).result = s.result := rfl
@[simp] theorem State.finish_busy : (s.finish).busy = false := rfl
@[simp] theorem State.finish_illegal : (s.finish).illegal = s.illegal := rfl
@[simp] theorem State.finish_overrun : (s.finish).overrun = s.overrun := rfl
@[simp] theorem State.finish_fbBase : (s.finish).fbBase = s.fbBase := rfl
@[simp] theorem State.finish_fbWidth : (s.finish).fbWidth = s.fbWidth := rfl
@[simp] theorem State.finish_fbHeight : (s.finish).fbHeight = s.fbHeight := rfl
@[simp] theorem State.finish_act : (s.finish).act = s.act := rfl
@[simp] theorem State.finish_fbmem : (s.finish).fbmem = s.fbmem := rfl
@[simp] theorem State.finish_srcmem : (s.finish).srcmem = s.srcmem := rfl
@[simp] theorem State.finish_platform : (s.finish).platform = s.platform := rfl
@[simp] theorem State.finish_inputs : (s.finish).inputs = s.inputs := rfl
@[simp] theorem State.finish_turns : (s.finish).turns = s.turns := rfl
@[simp] theorem State.finish_reads : (s.finish).reads = s.reads := rfl
@[simp] theorem State.finish_scanned : (s.finish).scanned = s.scanned := rfl
@[simp] theorem State.finish_draws : (s.finish).draws = s.draws := rfl

/-! ### `drawn` -/

@[simp] theorem State.drawn_arg0 (ps : List Plot) : (s.drawn ps).arg0 = s.arg0 := rfl
@[simp] theorem State.drawn_arg1 (ps : List Plot) : (s.drawn ps).arg1 = s.arg1 := rfl
@[simp] theorem State.drawn_arg2 (ps : List Plot) : (s.drawn ps).arg2 = s.arg2 := rfl
@[simp] theorem State.drawn_result (ps : List Plot) : (s.drawn ps).result = s.result := rfl
@[simp] theorem State.drawn_busy (ps : List Plot) : (s.drawn ps).busy = false := rfl
@[simp] theorem State.drawn_illegal (ps : List Plot) : (s.drawn ps).illegal = s.illegal := rfl
@[simp] theorem State.drawn_overrun (ps : List Plot) : (s.drawn ps).overrun = s.overrun := rfl
@[simp] theorem State.drawn_fbBase (ps : List Plot) : (s.drawn ps).fbBase = s.fbBase := rfl
@[simp] theorem State.drawn_fbWidth (ps : List Plot) : (s.drawn ps).fbWidth = s.fbWidth := rfl
@[simp] theorem State.drawn_fbHeight (ps : List Plot) : (s.drawn ps).fbHeight = s.fbHeight := rfl
@[simp] theorem State.drawn_act (ps : List Plot) : (s.drawn ps).act = s.act := rfl
@[simp] theorem State.drawn_fbmem (ps : List Plot) : (s.drawn ps).fbmem = plotAll s.act.geom ps s.fbmem := rfl
@[simp] theorem State.drawn_srcmem (ps : List Plot) : (s.drawn ps).srcmem = s.srcmem := rfl
@[simp] theorem State.drawn_platform (ps : List Plot) : (s.drawn ps).platform = s.platform := rfl
@[simp] theorem State.drawn_inputs (ps : List Plot) : (s.drawn ps).inputs = s.inputs := rfl
@[simp] theorem State.drawn_turns (ps : List Plot) : (s.drawn ps).turns = s.turns := rfl
@[simp] theorem State.drawn_reads (ps : List Plot) : (s.drawn ps).reads = s.reads := rfl
@[simp] theorem State.drawn_scanned (ps : List Plot) : (s.drawn ps).scanned = s.scanned := rfl
@[simp] theorem State.drawn_draws (ps : List Plot) : (s.drawn ps).draws = s.draws := rfl

/-! ### `rewritten` -/

@[simp] theorem State.rewritten_arg0 (f : Nat → Byte) : (s.rewritten f).arg0 = s.arg0 := rfl
@[simp] theorem State.rewritten_arg1 (f : Nat → Byte) : (s.rewritten f).arg1 = s.arg1 := rfl
@[simp] theorem State.rewritten_arg2 (f : Nat → Byte) : (s.rewritten f).arg2 = s.arg2 := rfl
@[simp] theorem State.rewritten_result (f : Nat → Byte) : (s.rewritten f).result = s.result := rfl
@[simp] theorem State.rewritten_busy (f : Nat → Byte) : (s.rewritten f).busy = false := rfl
@[simp] theorem State.rewritten_illegal (f : Nat → Byte) : (s.rewritten f).illegal = s.illegal := rfl
@[simp] theorem State.rewritten_overrun (f : Nat → Byte) : (s.rewritten f).overrun = s.overrun := rfl
@[simp] theorem State.rewritten_fbBase (f : Nat → Byte) : (s.rewritten f).fbBase = s.fbBase := rfl
@[simp] theorem State.rewritten_fbWidth (f : Nat → Byte) : (s.rewritten f).fbWidth = s.fbWidth := rfl
@[simp] theorem State.rewritten_fbHeight (f : Nat → Byte) : (s.rewritten f).fbHeight = s.fbHeight := rfl
@[simp] theorem State.rewritten_act (f : Nat → Byte) : (s.rewritten f).act = s.act := rfl
@[simp] theorem State.rewritten_fbmem (f : Nat → Byte) : (s.rewritten f).fbmem = Mem.writeRange s.act.geom.base f s.act.geom.bytes s.fbmem := rfl
@[simp] theorem State.rewritten_srcmem (f : Nat → Byte) : (s.rewritten f).srcmem = s.srcmem := rfl
@[simp] theorem State.rewritten_platform (f : Nat → Byte) : (s.rewritten f).platform = s.platform := rfl
@[simp] theorem State.rewritten_inputs (f : Nat → Byte) : (s.rewritten f).inputs = s.inputs := rfl
@[simp] theorem State.rewritten_turns (f : Nat → Byte) : (s.rewritten f).turns = s.turns := rfl
@[simp] theorem State.rewritten_reads (f : Nat → Byte) : (s.rewritten f).reads = s.reads := rfl
@[simp] theorem State.rewritten_scanned (f : Nat → Byte) : (s.rewritten f).scanned = s.scanned := rfl
@[simp] theorem State.rewritten_draws (f : Nat → Byte) : (s.rewritten f).draws = s.draws := rfl

/-! ### `readPixel` -/

@[simp] theorem State.readPixel_arg0 (x y : Int) : (s.readPixel x y).arg0 = s.arg0 := rfl
@[simp] theorem State.readPixel_arg1 (x y : Int) : (s.readPixel x y).arg1 = s.arg1 := rfl
@[simp] theorem State.readPixel_arg2 (x y : Int) : (s.readPixel x y).arg2 = s.arg2 := rfl
@[simp] theorem State.readPixel_result (x y : Int) : (s.readPixel x y).result = s.pixelResult x y := rfl
@[simp] theorem State.readPixel_busy (x y : Int) : (s.readPixel x y).busy = s.busy := rfl
@[simp] theorem State.readPixel_illegal (x y : Int) : (s.readPixel x y).illegal = s.illegal := rfl
@[simp] theorem State.readPixel_overrun (x y : Int) : (s.readPixel x y).overrun = s.overrun := rfl
@[simp] theorem State.readPixel_fbBase (x y : Int) : (s.readPixel x y).fbBase = s.fbBase := rfl
@[simp] theorem State.readPixel_fbWidth (x y : Int) : (s.readPixel x y).fbWidth = s.fbWidth := rfl
@[simp] theorem State.readPixel_fbHeight (x y : Int) : (s.readPixel x y).fbHeight = s.fbHeight := rfl
@[simp] theorem State.readPixel_act (x y : Int) : (s.readPixel x y).act = s.act := rfl
@[simp] theorem State.readPixel_fbmem (x y : Int) : (s.readPixel x y).fbmem = s.fbmem := rfl
@[simp] theorem State.readPixel_srcmem (x y : Int) : (s.readPixel x y).srcmem = s.srcmem := rfl
@[simp] theorem State.readPixel_platform (x y : Int) : (s.readPixel x y).platform = s.platform := rfl
@[simp] theorem State.readPixel_inputs (x y : Int) : (s.readPixel x y).inputs = s.inputs := rfl
@[simp] theorem State.readPixel_turns (x y : Int) : (s.readPixel x y).turns = s.turns := rfl
@[simp] theorem State.readPixel_reads (x y : Int) : (s.readPixel x y).reads = s.reads := rfl
@[simp] theorem State.readPixel_scanned (x y : Int) : (s.readPixel x y).scanned = s.scanned := rfl
@[simp] theorem State.readPixel_draws (x y : Int) : (s.readPixel x y).draws = (if s.drawsBit x y then s.draws + 1 else s.draws) := rfl

/-! ### `accept` -/

@[simp] theorem State.accept_arg0 (i : Instr) : (s.accept i).arg0 = s.arg0 := rfl
@[simp] theorem State.accept_arg1 (i : Instr) : (s.accept i).arg1 = s.arg1 := rfl
@[simp] theorem State.accept_arg2 (i : Instr) : (s.accept i).arg2 = s.arg2 := rfl
@[simp] theorem State.accept_result (i : Instr) : (s.accept i).result = s.result := rfl
@[simp] theorem State.accept_busy (i : Instr) : (s.accept i).busy = true := rfl
@[simp] theorem State.accept_illegal (i : Instr) : (s.accept i).illegal = s.illegal := rfl
@[simp] theorem State.accept_overrun (i : Instr) : (s.accept i).overrun = s.overrun := rfl
@[simp] theorem State.accept_fbBase (i : Instr) : (s.accept i).fbBase = s.fbBase := rfl
@[simp] theorem State.accept_fbWidth (i : Instr) : (s.accept i).fbWidth = s.fbWidth := rfl
@[simp] theorem State.accept_fbHeight (i : Instr) : (s.accept i).fbHeight = s.fbHeight := rfl
@[simp] theorem State.accept_act (i : Instr) : (s.accept i).act = ⟨i, s.arg0, s.arg1, s.arg2, s.fbBase, s.fbWidth, s.fbHeight⟩ := rfl
@[simp] theorem State.accept_fbmem (i : Instr) : (s.accept i).fbmem = s.fbmem := rfl
@[simp] theorem State.accept_srcmem (i : Instr) : (s.accept i).srcmem = s.srcmem := rfl
@[simp] theorem State.accept_platform (i : Instr) : (s.accept i).platform = s.platform := rfl
@[simp] theorem State.accept_inputs (i : Instr) : (s.accept i).inputs = s.inputs := rfl
@[simp] theorem State.accept_turns (i : Instr) : (s.accept i).turns = s.turns := rfl
@[simp] theorem State.accept_reads (i : Instr) : (s.accept i).reads = s.reads := rfl
@[simp] theorem State.accept_scanned (i : Instr) : (s.accept i).scanned = s.scanned := rfl
@[simp] theorem State.accept_draws (i : Instr) : (s.accept i).draws = s.draws := rfl

/-! ### `deliver` -/

@[simp] theorem State.deliver_arg0 (v : ReadValue) : (s.deliver v).arg0 = s.arg0 := rfl
@[simp] theorem State.deliver_arg1 (v : ReadValue) : (s.deliver v).arg1 = s.arg1 := rfl
@[simp] theorem State.deliver_arg2 (v : ReadValue) : (s.deliver v).arg2 = s.arg2 := rfl
@[simp] theorem State.deliver_result (v : ReadValue) : (s.deliver v).result = s.result := rfl
@[simp] theorem State.deliver_busy (v : ReadValue) : (s.deliver v).busy = s.busy := rfl
@[simp] theorem State.deliver_illegal (v : ReadValue) : (s.deliver v).illegal = s.illegal := rfl
@[simp] theorem State.deliver_overrun (v : ReadValue) : (s.deliver v).overrun = s.overrun := rfl
@[simp] theorem State.deliver_fbBase (v : ReadValue) : (s.deliver v).fbBase = s.fbBase := rfl
@[simp] theorem State.deliver_fbWidth (v : ReadValue) : (s.deliver v).fbWidth = s.fbWidth := rfl
@[simp] theorem State.deliver_fbHeight (v : ReadValue) : (s.deliver v).fbHeight = s.fbHeight := rfl
@[simp] theorem State.deliver_act (v : ReadValue) : (s.deliver v).act = s.act := rfl
@[simp] theorem State.deliver_fbmem (v : ReadValue) : (s.deliver v).fbmem = s.fbmem := rfl
@[simp] theorem State.deliver_srcmem (v : ReadValue) : (s.deliver v).srcmem = s.srcmem := rfl
@[simp] theorem State.deliver_platform (v : ReadValue) : (s.deliver v).platform = s.platform := rfl
@[simp] theorem State.deliver_inputs (v : ReadValue) : (s.deliver v).inputs = s.inputs := rfl
@[simp] theorem State.deliver_turns (v : ReadValue) : (s.deliver v).turns = s.turns := rfl
@[simp] theorem State.deliver_reads (v : ReadValue) : (s.deliver v).reads = s.reads ++ [v] := rfl
@[simp] theorem State.deliver_scanned (v : ReadValue) : (s.deliver v).scanned = s.scanned := rfl
@[simp] theorem State.deliver_draws (v : ReadValue) : (s.deliver v).draws = s.draws := rfl

/-! ### `resetRegs` -/

@[simp] theorem State.resetRegs_arg0 : (s.resetRegs).arg0 = 0#32 := rfl
@[simp] theorem State.resetRegs_arg1 : (s.resetRegs).arg1 = 0#32 := rfl
@[simp] theorem State.resetRegs_arg2 : (s.resetRegs).arg2 = 0#32 := rfl
@[simp] theorem State.resetRegs_result : (s.resetRegs).result = 0#1 := rfl
@[simp] theorem State.resetRegs_busy : (s.resetRegs).busy = false := rfl
@[simp] theorem State.resetRegs_illegal : (s.resetRegs).illegal = false := rfl
@[simp] theorem State.resetRegs_overrun : (s.resetRegs).overrun = false := rfl
@[simp] theorem State.resetRegs_fbBase : (s.resetRegs).fbBase = 0#32 := rfl
@[simp] theorem State.resetRegs_fbWidth : (s.resetRegs).fbWidth = 0#15 := rfl
@[simp] theorem State.resetRegs_fbHeight : (s.resetRegs).fbHeight = 0#15 := rfl
@[simp] theorem State.resetRegs_act : (s.resetRegs).act = Latch.empty := rfl
@[simp] theorem State.resetRegs_fbmem : (s.resetRegs).fbmem = s.fbmem := rfl
@[simp] theorem State.resetRegs_srcmem : (s.resetRegs).srcmem = s.srcmem := rfl
@[simp] theorem State.resetRegs_platform : (s.resetRegs).platform = s.platform := rfl
@[simp] theorem State.resetRegs_inputs : (s.resetRegs).inputs = s.inputs := rfl
@[simp] theorem State.resetRegs_turns : (s.resetRegs).turns = s.turns := rfl
@[simp] theorem State.resetRegs_reads : (s.resetRegs).reads = s.reads := rfl
@[simp] theorem State.resetRegs_scanned : (s.resetRegs).scanned = s.scanned := rfl
@[simp] theorem State.resetRegs_draws : (s.resetRegs).draws = s.draws := rfl

/-! ### `scramble` -/

@[simp] theorem State.scramble_arg0 : (s.scramble).arg0 = s.arg0 := rfl
@[simp] theorem State.scramble_arg1 : (s.scramble).arg1 = s.arg1 := rfl
@[simp] theorem State.scramble_arg2 : (s.scramble).arg2 = s.arg2 := rfl
@[simp] theorem State.scramble_result : (s.scramble).result = s.result := rfl
@[simp] theorem State.scramble_busy : (s.scramble).busy = s.busy := rfl
@[simp] theorem State.scramble_illegal : (s.scramble).illegal = s.illegal := rfl
@[simp] theorem State.scramble_overrun : (s.scramble).overrun = s.overrun := rfl
@[simp] theorem State.scramble_fbBase : (s.scramble).fbBase = s.fbBase := rfl
@[simp] theorem State.scramble_fbWidth : (s.scramble).fbWidth = s.fbWidth := rfl
@[simp] theorem State.scramble_fbHeight : (s.scramble).fbHeight = s.fbHeight := rfl
@[simp] theorem State.scramble_act : (s.scramble).act = s.act := rfl
@[simp] theorem State.scramble_fbmem : (s.scramble).fbmem = Mem.writeRange s.act.geom.base (fun i => Config.freeByte (s.draws + i)) s.act.geom.bytes s.fbmem := rfl
@[simp] theorem State.scramble_srcmem : (s.scramble).srcmem = s.srcmem := rfl
@[simp] theorem State.scramble_platform : (s.scramble).platform = s.platform := rfl
@[simp] theorem State.scramble_inputs : (s.scramble).inputs = s.inputs := rfl
@[simp] theorem State.scramble_turns : (s.scramble).turns = s.turns := rfl
@[simp] theorem State.scramble_reads : (s.scramble).reads = s.reads := rfl
@[simp] theorem State.scramble_scanned : (s.scramble).scanned = s.scanned := rfl
@[simp] theorem State.scramble_draws : (s.scramble).draws = s.draws + s.act.geom.bytes := rfl

/-! ### `spendTurn` -/

@[simp] theorem State.spendTurn_arg0 : (s.spendTurn).arg0 = s.arg0 := rfl
@[simp] theorem State.spendTurn_arg1 : (s.spendTurn).arg1 = s.arg1 := rfl
@[simp] theorem State.spendTurn_arg2 : (s.spendTurn).arg2 = s.arg2 := rfl
@[simp] theorem State.spendTurn_result : (s.spendTurn).result = s.result := rfl
@[simp] theorem State.spendTurn_busy : (s.spendTurn).busy = s.busy := rfl
@[simp] theorem State.spendTurn_illegal : (s.spendTurn).illegal = s.illegal := rfl
@[simp] theorem State.spendTurn_overrun : (s.spendTurn).overrun = s.overrun := rfl
@[simp] theorem State.spendTurn_fbBase : (s.spendTurn).fbBase = s.fbBase := rfl
@[simp] theorem State.spendTurn_fbWidth : (s.spendTurn).fbWidth = s.fbWidth := rfl
@[simp] theorem State.spendTurn_fbHeight : (s.spendTurn).fbHeight = s.fbHeight := rfl
@[simp] theorem State.spendTurn_act : (s.spendTurn).act = s.act := rfl
@[simp] theorem State.spendTurn_fbmem : (s.spendTurn).fbmem = s.fbmem := rfl
@[simp] theorem State.spendTurn_srcmem : (s.spendTurn).srcmem = s.srcmem := rfl
@[simp] theorem State.spendTurn_platform : (s.spendTurn).platform = s.platform := rfl
@[simp] theorem State.spendTurn_inputs : (s.spendTurn).inputs = s.inputs := rfl
@[simp] theorem State.spendTurn_turns : (s.spendTurn).turns = (if s.busy then s.turns.tail else s.turns) := rfl
@[simp] theorem State.spendTurn_reads : (s.spendTurn).reads = s.reads := rfl
@[simp] theorem State.spendTurn_scanned : (s.spendTurn).scanned = s.scanned := rfl
@[simp] theorem State.spendTurn_draws : (s.spendTurn).draws = s.draws := rfl

/-! ### `outsideView` -/

@[simp] theorem State.outsideView_arg0 (rest : List Input) : (s.outsideView rest).arg0 = s.arg0 := rfl
@[simp] theorem State.outsideView_arg1 (rest : List Input) : (s.outsideView rest).arg1 = s.arg1 := rfl
@[simp] theorem State.outsideView_arg2 (rest : List Input) : (s.outsideView rest).arg2 = s.arg2 := rfl
@[simp] theorem State.outsideView_result (rest : List Input) : (s.outsideView rest).result = s.result := rfl
@[simp] theorem State.outsideView_busy (rest : List Input) : (s.outsideView rest).busy = s.busy := rfl
@[simp] theorem State.outsideView_illegal (rest : List Input) : (s.outsideView rest).illegal = s.illegal := rfl
@[simp] theorem State.outsideView_overrun (rest : List Input) : (s.outsideView rest).overrun = s.overrun := rfl
@[simp] theorem State.outsideView_fbBase (rest : List Input) : (s.outsideView rest).fbBase = s.fbBase := rfl
@[simp] theorem State.outsideView_fbWidth (rest : List Input) : (s.outsideView rest).fbWidth = s.fbWidth := rfl
@[simp] theorem State.outsideView_fbHeight (rest : List Input) : (s.outsideView rest).fbHeight = s.fbHeight := rfl
@[simp] theorem State.outsideView_act (rest : List Input) : (s.outsideView rest).act = s.act := rfl
@[simp] theorem State.outsideView_fbmem (rest : List Input) : (s.outsideView rest).fbmem = s.fbmem := rfl
@[simp] theorem State.outsideView_srcmem (rest : List Input) : (s.outsideView rest).srcmem = s.srcmem := rfl
@[simp] theorem State.outsideView_platform (rest : List Input) : (s.outsideView rest).platform = s.platform := rfl
@[simp] theorem State.outsideView_inputs (rest : List Input) : (s.outsideView rest).inputs = rest := rfl
@[simp] theorem State.outsideView_turns (rest : List Input) : (s.outsideView rest).turns = (if s.busy then s.turns.tail else s.turns) := rfl
@[simp] theorem State.outsideView_reads (rest : List Input) : (s.outsideView rest).reads = s.reads := rfl
@[simp] theorem State.outsideView_scanned (rest : List Input) : (s.outsideView rest).scanned = s.scanned := rfl
@[simp] theorem State.outsideView_draws (rest : List Input) : (s.outsideView rest).draws = s.draws := rfl

/-! ### `launchFrom` -/

section

variable (p : Platform) (fb src : Mem) (program : List Input) (turns : List Mover)

@[simp] theorem State.launchFrom_arg0 : (s.launchFrom p fb src program turns).arg0 = s.arg0 := rfl
@[simp] theorem State.launchFrom_arg1 : (s.launchFrom p fb src program turns).arg1 = s.arg1 := rfl
@[simp] theorem State.launchFrom_arg2 : (s.launchFrom p fb src program turns).arg2 = s.arg2 := rfl
@[simp] theorem State.launchFrom_result : (s.launchFrom p fb src program turns).result = s.result := rfl
@[simp] theorem State.launchFrom_busy : (s.launchFrom p fb src program turns).busy = s.busy := rfl
@[simp] theorem State.launchFrom_illegal : (s.launchFrom p fb src program turns).illegal = s.illegal := rfl
@[simp] theorem State.launchFrom_overrun : (s.launchFrom p fb src program turns).overrun = s.overrun := rfl
@[simp] theorem State.launchFrom_fbBase : (s.launchFrom p fb src program turns).fbBase = s.fbBase := rfl
@[simp] theorem State.launchFrom_fbWidth : (s.launchFrom p fb src program turns).fbWidth = s.fbWidth := rfl
@[simp] theorem State.launchFrom_fbHeight : (s.launchFrom p fb src program turns).fbHeight = s.fbHeight := rfl
@[simp] theorem State.launchFrom_act : (s.launchFrom p fb src program turns).act = s.act := rfl
@[simp] theorem State.launchFrom_fbmem : (s.launchFrom p fb src program turns).fbmem = fb := rfl
@[simp] theorem State.launchFrom_srcmem : (s.launchFrom p fb src program turns).srcmem = src := rfl
@[simp] theorem State.launchFrom_platform : (s.launchFrom p fb src program turns).platform = p := rfl
@[simp] theorem State.launchFrom_inputs : (s.launchFrom p fb src program turns).inputs = program := rfl
@[simp] theorem State.launchFrom_turns : (s.launchFrom p fb src program turns).turns = turns := rfl
@[simp] theorem State.launchFrom_reads : (s.launchFrom p fb src program turns).reads = [] := rfl
@[simp] theorem State.launchFrom_scanned : (s.launchFrom p fb src program turns).scanned = [] := rfl
@[simp] theorem State.launchFrom_draws : (s.launchFrom p fb src program turns).draws = s.draws := rfl

end

end Sys2Proof.Machine
end

