-- ==== Sys2Proof/Laws/Ops.lean ====
section
/-! SUPPORT. What each shared operation can do, said once: bits of a masked byte, one plot, a list of plots, the engine
step and the two ways a command changes the region. -/

namespace Sys2Proof.Machine

/-! ### Bits -/

theorem bitmask_getLsbD (x j : Nat) (hj : j < 8) : (bitmask x).getLsbD j = decide (j = 7 - x % 8) := by
  have h : ∀ k < 8, ∀ j < 8, ((0x80#8 >>> k).getLsbD j) = decide (j = 7 - k) := by decide
  exact h _ (Nat.mod_lt _ (by omega)) j hj

/-- A mode applied under the mask of column `x` acts on column `c` of the byte exactly when they are the same column. -/
theorem applyMode_bit (md : Mode) (b : Byte) (x c : Nat) :
    ((applyMode md b (bitmask x)) >>> (7 - c % 8)).setWidth 1 =
      if x % 8 = c % 8 then applyBit md ((b >>> (7 - c % 8)).setWidth 1) else (b >>> (7 - c % 8)).setWidth 1 := by
  apply BitVec.eq_of_getLsbD_eq
  intro i hi
  obtain rfl : i = 0 := by omega
  have hc : 7 - c % 8 < 8 := by omega
  have hm := bitmask_getLsbD x (7 - c % 8) hc
  have he : decide (7 - c % 8 = 7 - x % 8) = decide (x % 8 = c % 8) := by
    apply decide_eq_decide.2; omega
  rw [he, BitVec.getLsbD_eq_getElem hc] at hm
  split <;> rename_i h <;> cases md <;>
    simp [applyMode, applyBit, hm, h, hc]

/-! ### Geometry -/

theorem Geom.contains_iff (g : Geom) (x y : Int) :
    g.contains x y = true ↔ 0 ≤ x ∧ 0 ≤ y ∧ x < g.w ∧ y < g.h := by
  simp [Geom.contains, and_assoc]

theorem Geom.inRegion_iff (g : Geom) (a : Nat) : g.inRegion a = true ↔ g.base ≤ a ∧ a < g.base + g.bytes := by
  simp [Geom.inRegion]

/-- A pixel's column lies in the bytes of its row. -/
theorem Geom.w_le (g : Geom) : g.w ≤ 8 * g.stride := by unfold Geom.stride; omega

theorem Geom.index_lt (g : Geom) {x y : Nat} (hx : x < 8 * g.stride) (hy : y < g.h) : g.index x y < g.bytes := by
  have h1 : x / 8 < g.stride := by omega
  have h2 : (y + 1) * g.stride ≤ g.h * g.stride := Nat.mul_le_mul_right _ hy
  unfold Geom.index Geom.bytes
  rw [Nat.mul_comm g.stride]
  rw [Nat.add_mul] at h2
  omega

/-- Two columns of rows of the framebuffer share a byte only in one row and one group of eight columns. -/
theorem Geom.index_inj (g : Geom) {x y x' y' : Nat} (hx : x < 8 * g.stride) (hx' : x' < 8 * g.stride)
    (h : g.index x y = g.index x' y') : y = y' ∧ x / 8 = x' / 8 := by
  have h1 : x / 8 < g.stride := by omega
  have h2 : x' / 8 < g.stride := by omega
  have hpos : 0 < g.stride := by omega
  unfold Geom.index at h
  have hd := congrArg (· / g.stride) h
  simp only [Nat.mul_comm _ g.stride, Nat.mul_add_div hpos, Nat.div_eq_of_lt h1, Nat.div_eq_of_lt h2,
    Nat.add_zero] at hd
  subst y'
  exact ⟨rfl, by omega⟩

/-! ### Plots -/

/-- The region of a geometry lies below 2^32. -/
def Geom.Fits (g : Geom) : Prop := g.base + g.bytes ≤ 2 ^ 32

variable {g : Geom} {m : Mem}

/-- A pixel keeps its value where the byte it lies in does. -/
theorem Geom.pixel_congr {m' : Mem} {x y : Nat}
    (h : Mem.read m (g.base + g.index x y) = Mem.read m' (g.base + g.index x y)) : g.pixel m x y = g.pixel m' x y := by
  unfold Geom.pixel Geom.byteAt; rw [h]

/-- One plot keeps the canonical form. -/
theorem plotOne_wf (hm : Mem.wf m = true) (hg : g.Fits) (p : Plot) : Mem.wf (plotOne g m p) = true := by
  unfold plotOne
  split
  · rename_i h
    simp only [Bool.and_eq_true, Geom.contains_iff] at h
    have := g.w_le
    have := g.index_lt (x := p.x.toNat) (y := p.y.toNat) (by omega) (by omega)
    exact Mem.wf_write hm (by unfold Geom.Fits at hg; omega) _
  · exact hm

/-- One plot leaves every byte outside the region. -/
theorem plotOne_read_outside (hm : Mem.wf m = true) (hg : g.Fits) (p : Plot) {a : Nat} (ha : g.inRegion a = false) :
    Mem.read (plotOne g m p) a = Mem.read m a := by
  unfold plotOne
  split
  · rename_i h
    simp only [Bool.and_eq_true, Geom.contains_iff] at h
    have := g.w_le
    have hi := g.index_lt (x := p.x.toNat) (y := p.y.toNat) (by omega) (by omega)
    rw [Mem.read_write hm (by unfold Geom.Fits at hg; omega), if_neg]
    rintro rfl
    have : g.inRegion (g.base + g.index p.x.toNat p.y.toNat) = true := (g.inRegion_iff _).2 ⟨by omega, by omega⟩
    rw [this] at ha
    cases ha
  · rfl

/-- One plot, bit by bit: it applies its mode at its own point, if that is a pixel, and leaves every other column of
every row, padding included. -/
theorem plotOne_pixel (hm : Mem.wf m = true) (hg : g.Fits) (p : Plot) {x y : Nat} (hx : x < 8 * g.stride) (hy : y < g.h) :
    g.pixel (plotOne g m p) x y =
      if p.x = x ∧ p.y = y ∧ x < g.w then applyBit p.mode (g.pixel m x y) else g.pixel m x y := by
  unfold plotOne
  split
  · rename_i h
    simp only [Bool.and_eq_true, Geom.contains_iff] at h
    have hw := g.w_le
    have hi := g.index_lt (x := p.x.toNat) (y := p.y.toNat) (by omega) (by omega)
    have ha : g.base + g.index p.x.toNat p.y.toNat < 2 ^ 32 := by unfold Geom.Fits at hg; omega
    by_cases hidx : g.index x y = g.index p.x.toNat p.y.toNat
    · obtain ⟨h1, h2⟩ := g.index_inj hx (by omega) hidx
      have hread : g.pixel (Mem.write m (g.base + g.index p.x.toNat p.y.toNat)
          (applyMode p.mode (g.byteAt m (g.index p.x.toNat p.y.toNat)) (bitmask p.x.toNat))) x y =
          ((applyMode p.mode (g.byteAt m (g.index x y)) (bitmask p.x.toNat)) >>> (7 - x % 8)).setWidth 1 := by
        unfold Geom.pixel
        congr 2
        conv_lhs => unfold Geom.byteAt
        rw [Mem.read_write hm ha, if_pos (by rw [hidx]), hidx]
        rfl
      rw [hread, applyMode_bit]
      by_cases hmod : p.x.toNat % 8 = x % 8
      · rw [if_pos hmod, if_pos (by omega)]; rfl
      · rw [if_neg hmod, if_neg (by omega)]; rfl
    · rw [if_neg]
      · apply Geom.pixel_congr
        rw [Mem.read_write hm ha, if_neg (by omega)]
      · rintro ⟨h1, h2, -⟩
        apply hidx
        rw [h1, h2, Int.toNat_natCast, Int.toNat_natCast]
  · rename_i h
    split
    · rename_i hp
      have hc : g.contains p.x p.y = true := by rw [Geom.contains_iff]; omega
      have hno : p.mode = .noOp := by simpa [hc] using h
      rw [hno]; rfl
    · rfl

@[simp] theorem plotAll_nil : plotAll g [] m = m := rfl

theorem plotAll_cons (p : Plot) (ps : List Plot) : plotAll g (p :: ps) m = plotAll g ps (plotOne g m p) := rfl

theorem plotAll_append (ps qs : List Plot) : plotAll g (ps ++ qs) m = plotAll g qs (plotAll g ps m) :=
  List.foldl_append ..

/-- Everything a list of plots does: the canonical form stays, bytes outside the region stay, each pixel takes the plots
at its point in order, and padding columns stay. -/
theorem plotAll_spec (hm : Mem.wf m = true) (hg : g.Fits) (ps : List Plot) :
    Mem.wf (plotAll g ps m) = true ∧
    (∀ a, g.inRegion a = false → Mem.read (plotAll g ps m) a = Mem.read m a) ∧
    (∀ x y, x < g.w → y < g.h → g.pixel (plotAll g ps m) x y = pixelAfter ps x y (g.pixel m x y)) ∧
    (∀ x y, g.w ≤ x → x < 8 * g.stride → y < g.h → g.pixel (plotAll g ps m) x y = g.pixel m x y) := by
  induction ps generalizing m with
  | nil => exact ⟨hm, fun _ _ => rfl, fun _ _ _ _ => rfl, fun _ _ _ _ _ => rfl⟩
  | cons p ps ih =>
    obtain ⟨h1, h2, h3, h4⟩ := ih (plotOne_wf hm hg p)
    have hw := g.w_le
    refine ⟨h1, fun a ha => ?_, fun x y hx hy => ?_, fun x y hx hx' hy => ?_⟩
    · rw [plotAll_cons, h2 a ha, plotOne_read_outside hm hg p ha]
    · rw [plotAll_cons, h3 x y hx hy, plotOne_pixel hm hg p (by omega) hy]
      simp only [hx, and_true]
      rfl
    · rw [plotAll_cons, h4 x y hx hx' hy, plotOne_pixel hm hg p hx' hy, if_neg (by omega)]

/-! ### A byte merged under a mask -/

/-- The mask of byte `q` holds exactly the columns of that byte that are pixels. -/
theorem Geom.pixelMask_getLsbD (q : Int) {j : Nat} (hj : j < 8) :
    (g.pixelMask q).getLsbD j = decide (0 ≤ q ∧ 8 * q + (7 - (j : Int)) < g.w) := by
  have h : ∀ n < 9, ∀ j < 8, ((0xFF#8 <<< (8 - n)).getLsbD j) = decide (7 - j < n) := by decide
  unfold Geom.pixelMask
  split
  · rw [decide_eq_false (by omega)]; simp
  · rw [h _ (by omega) j hj]
    exact decide_eq_decide.2 (by omega)

/-- Everything a merge does: the canonical form stays, bytes outside the region stay, and each column of each row takes the
bit of `v` where it is a pixel of that byte under the mask, and stays otherwise. -/
theorem mergeByte_spec (hm : Mem.wf m = true) (hg : g.Fits) (y q : Int) (k v : Byte) :
    Mem.wf (mergeByte g m y q k v) = true ∧
    (∀ a, g.inRegion a = false → Mem.read (mergeByte g m y q k v) a = Mem.read m a) ∧
    (∀ c r : Nat, c < 8 * g.stride → r < g.h →
      g.pixel (mergeByte g m y q k v) c r =
        if y = r ∧ q = ((c / 8 : Nat) : Int) ∧ c < g.w ∧ k.getLsbD (7 - c % 8) = true then
          (v >>> (7 - c % 8)).setWidth 1
        else g.pixel m c r) := by
  have hw := g.w_le
  by_cases hc : y < 0 ∨ (g.h : Int) ≤ y ∨ k &&& g.pixelMask q = 0x00#8
  · have he : mergeByte g m y q k v = m := if_pos hc
    rw [he]
    refine ⟨hm, fun _ _ => rfl, fun c r hc' hr => (if_neg ?_).symm⟩
    rintro ⟨hy, hq, hcw, hk⟩
    have hj : 7 - c % 8 < 8 := by omega
    rcases hc with h | h | h
    · omega
    · omega
    · have hb := congrArg (fun b => b.getLsbD (7 - c % 8)) h
      simp only [BitVec.getLsbD_and, hk, Geom.pixelMask_getLsbD q hj, Bool.true_and, BitVec.getLsbD_zero,
        decide_eq_false_iff_not] at hb
      omega
  · have hq : 0 ≤ q ∧ 8 * q < g.w := by
      by_contra hn
      apply hc
      refine .inr (.inr (BitVec.eq_of_getLsbD_eq fun j hj => ?_))
      rw [BitVec.getLsbD_and, Geom.pixelMask_getLsbD q hj, decide_eq_false (by omega)]
      simp
    have he : mergeByte g m y q k v = Mem.write m (g.base + (y.toNat * g.stride + q.toNat))
        (g.byteAt m (y.toNat * g.stride + q.toNat) &&& ~~~(k &&& g.pixelMask q) ||| v &&& (k &&& g.pixelMask q)) :=
      if_neg hc
    have hi : y.toNat * g.stride + q.toNat = g.index (8 * q.toNat) y.toNat := by
      unfold Geom.index; congr 1; omega
    have hlt := g.index_lt (x := 8 * q.toNat) (y := y.toNat) (by omega) (by omega)
    rw [hi] at he
    have ha : g.base + g.index (8 * q.toNat) y.toNat < 2 ^ 32 := by unfold Geom.Fits at hg; omega
    rw [he]
    refine ⟨Mem.wf_write hm ha _, fun a hr => ?_, fun c r hc' hr => ?_⟩
    · rw [Mem.read_write hm ha, if_neg]
      intro h
      rw [(g.inRegion_iff a).2 (by omega)] at hr
      cases hr
    · by_cases hidx : g.index c r = g.index (8 * q.toNat) y.toNat
      · obtain ⟨h1, h2⟩ := g.index_inj hc' (by omega) hidx
        have hj : 7 - c % 8 < 8 := by omega
        have hmask := Geom.pixelMask_getLsbD (g := g) q hj
        have hd : decide (0 ≤ q ∧ 8 * q + (7 - ((7 - c % 8 : Nat) : Int)) < g.w) = decide (c < g.w) :=
          decide_eq_decide.2 (by omega)
        rw [hd, BitVec.getLsbD_eq_getElem hj] at hmask
        have hcond : (y = r ∧ q = ((c / 8 : Nat) : Int) ∧ c < g.w ∧ k.getLsbD (7 - c % 8) = true) ↔
            (c < g.w ∧ k[7 - c % 8] = true) := by
          rw [BitVec.getLsbD_eq_getElem hj]
          exact ⟨fun h => h.2.2, fun h => ⟨by omega, by omega, h⟩⟩
        simp only [hcond]
        unfold Geom.pixel Geom.byteAt
        rw [Mem.read_write hm ha, if_pos (by rw [hidx]), hidx]
        apply BitVec.eq_of_getLsbD_eq
        intro i hi'
        obtain rfl : i = 0 := by omega
        by_cases hcw : c < g.w <;> cases hk : k[7 - c % 8] <;> simp [hmask, hcw, hk, hj]
      · rw [if_neg]
        · apply Geom.pixel_congr
          rw [Mem.read_write hm ha, if_neg (by omega)]
        · rintro ⟨h1, h2, -⟩
          apply hidx
          unfold Geom.index
          rw [h1, h2, Int.toNat_natCast, Int.toNat_natCast, Nat.mul_div_cancel_left _ (by omega)]

/-! ### The engine step -/

/-- A region check that passes puts the region below 2^32, or leaves it empty. -/
theorem State.regionValid_fits {s : State} (h : s.regionValid = true) :
    s.act.geom.bytes = 0 ∨ s.act.geom.Fits := by
  unfold State.regionValid at h
  simp only [Bool.or_eq_true, Bool.and_eq_true, decide_eq_true_eq] at h
  exact h.imp id (fun h => h.1)

theorem Latch.base_lt (a : Latch) : a.geom.base < 2 ^ 32 := a.base.isLt

/-- A region that passed its check lies below 2^32, an empty one too. -/
theorem State.fits_of_valid {s : State} (h : s.regionValid = true) : s.act.geom.Fits := by
  rcases s.regionValid_fits h with h | h
  · have := s.act.base_lt
    unfold Geom.Fits
    omega
  · exact h

/-- An engine step runs its command when the region check passes, and faults when it does not. -/
theorem State.engineStep_valid {s : State} (h : s.regionValid = true)
    (k : State → Host.Outcome State Fault Refusal) : s.engineStep k = k s := if_pos h

theorem State.engineStep_invalid {s : State} (h : s.regionValid = false)
    (k : State → Host.Outcome State Fault Refusal) : s.engineStep k = .fault .fbUnmapped := by
  unfold State.engineStep; rw [h]; rfl

/-- An engine step that answers a next state passed its region check. -/
theorem State.engineStep_next {s t : State} {k : State → Host.Outcome State Fault Refusal}
    (h : s.engineStep k = .next t) : s.regionValid = true ∧ k s = .next t := by
  cases hv : s.regionValid with
  | true => exact ⟨rfl, by rwa [s.engineStep_valid hv] at h⟩
  | false => rw [s.engineStep_invalid hv] at h; cases h

/-- Everything a drawing command's plots do to the state. -/
theorem State.drawn_redrawn {s : State} (hm : Mem.wf s.fbmem = true) (hg : s.act.geom.Fits) (ps : List Plot) :
    Redrawn s (s.drawn ps) (pixelAfter ps) := by
  obtain ⟨-, h2, h3, h4⟩ := plotAll_spec hm hg ps
  exact ⟨rfl, h3, h4, h2⟩

/-- Everything a rewriting of the region does to FBMEM. -/
theorem State.rewritten_read {s : State} (hm : Mem.wf s.fbmem = true) (hg : s.act.geom.Fits) (f : Nat → Byte) :
    Mem.wf (s.rewritten f).fbmem = true ∧
    (∀ i, i < s.act.geom.bytes → s.act.geom.byteAt (s.rewritten f).fbmem i = f i) ∧
    (∀ a, s.act.geom.inRegion a = false → Mem.read (s.rewritten f).fbmem a = Mem.read s.fbmem a) := by
  obtain ⟨h1, h2⟩ := Mem.writeRange_spec hm s.act.geom.base f hg
  refine ⟨h1, fun i hi => ?_, fun a ha => ?_⟩
  · unfold Geom.byteAt
    rw [State.rewritten_fbmem, h2, if_pos (by omega)]
    congr 1; omega
  · rw [State.rewritten_fbmem, h2, if_neg]
    intro h
    rw [(Geom.inRegion_iff ..).2 h] at ha
    cases ha

end Sys2Proof.Machine
end

