-- ==== Sys2Proof/Laws/PerInstr.lean ====
section
/-! SUPPORT. The per-instruction family EncodesLegally: the word of a command is legal and carries its opcode
(30 R72, R76). -/

namespace Sys2Proof.Laws.EncodesLegally

/-- The command's word is legal, has the command's opcode in bits [3:0], and matches one row of the table. -/
def Statement (i : Instr) : Prop :=
  WellFormed.legal (encode i) = true ∧ (encode i).toNat % 16 = opcode i ∧
    (rows.filter fun r => r.accepts (encode i)).length = 1

theorem setPixel (m : Mode) : Statement (.setPixel m) := by cases m <;> (unfold Statement; decide)
theorem getPixel : Statement .getPixel := by unfold Statement; decide
theorem fill (m : Mode) : Statement (.fill m) := by cases m <;> (unfold Statement; decide)
theorem drawRow (m : Mode) : Statement (.drawRow m) := by cases m <;> (unfold Statement; decide)
theorem drawColumn (m : Mode) : Statement (.drawColumn m) := by cases m <;> (unfold Statement; decide)
theorem drawLine (m : Mode) : Statement (.drawLine m) := by cases m <;> (unfold Statement; decide)
theorem drawRect (m : Mode) (fe : Bool) (fm : Mode) : Statement (.drawRect m fe fm) := by
  cases m <;> cases fe <;> cases fm <;> (unfold Statement; decide)
theorem drawCircle (m : Mode) (fe : Bool) (fm : Mode) : Statement (.drawCircle m fe fm) := by
  cases m <;> cases fe <;> cases fm <;> (unfold Statement; decide)
theorem shift (dir : Dir) : Statement (.shift dir) := by cases dir <;> (unfold Statement; decide)
theorem bitmap : Statement .bitmap := by unfold Statement; decide

end Sys2Proof.Laws.EncodesLegally
end

