-- ==== Sys2Proof/Laws/Step.lean ====
section
/-! SUPPORT. What a command, a move of the outside and a step can do, said once each: "if it answers a next state, then
one of these". -/

namespace Sys2Proof.Machine

variable {s t : State}

/-- A command that answers a next state passed its region check, and made plots, or rewrote its region, or read a pixel,
or (FILL under NoOp) did nothing; BUSY is 0 after it. -/
theorem exec_cases {i : Instr} (h : exec i s = .next t) :
    s.regionValid = true ∧
      ((∃ ps, t = s.drawn ps) ∨ (∃ f, t = s.rewritten f) ∨
        (i = .getPixel ∧ t = (s.readPixel s.act.coord0 s.act.coord1).finish) ∨ (i = .fill .noOp ∧ t = s.finish)) := by
  have done {k : State → Host.Outcome State Fault Refusal} (hk : s.engineStep k = .next t) :
      s.regionValid = true ∧ k s = .next t := State.engineStep_next hk
  have drew {ps : List Plot} (hd : s.draw ps = .next t) : s.regionValid = true ∧ t = s.drawn ps := by
    obtain ⟨h1, h2⟩ := done hd
    cases h2
    exact ⟨h1, rfl⟩
  have rewrote {f : Nat → Byte} (hd : s.rewrite f = .next t) : s.regionValid = true ∧ t = s.rewritten f := by
    obtain ⟨h1, h2⟩ := done hd
    cases h2
    exact ⟨h1, rfl⟩
  cases i with
  | getPixel =>
    simp only [exec, execGetPixel] at h
    obtain ⟨h1, h2⟩ := done h
    cases h2
    exact ⟨h1, .inr (.inr (.inl ⟨rfl, rfl⟩))⟩
  | fill m =>
    cases m with
    | noOp =>
      simp only [exec, execFill] at h
      obtain ⟨h1, h2⟩ := done h
      cases h2
      exact ⟨h1, .inr (.inr (.inr ⟨rfl, rfl⟩))⟩
    | _ => exact ⟨(rewrote h).1, .inr (.inl ⟨_, (rewrote h).2⟩)⟩
  | shift dir => exact ⟨(rewrote h).1, .inr (.inl ⟨_, (rewrote h).2⟩)⟩
  | bitmap =>
    simp only [exec, execBitmap] at h
    obtain ⟨h1, h2⟩ := done h
    refine ⟨h1, .inl ?_⟩
    split at h2 <;> cases h2
    exact ⟨_, rfl⟩
  | setPixel m => exact ⟨(drew h).1, .inl ⟨_, (drew h).2⟩⟩
  | drawRow m => exact ⟨(drew h).1, .inl ⟨_, (drew h).2⟩⟩
  | drawColumn m => exact ⟨(drew h).1, .inl ⟨_, (drew h).2⟩⟩
  | drawLine m => exact ⟨(drew h).1, .inl ⟨_, (drew h).2⟩⟩
  | drawRect m fe fm => exact ⟨(drew h).1, .inl ⟨_, (drew h).2⟩⟩
  | drawCircle m fe fm => exact ⟨(drew h).1, .inl ⟨_, (drew h).2⟩⟩

/-- The engine moves only while BUSY = 1. -/
theorem State.busy_of_engine (h : s.nextMove = .engine) : s.busy = true := by
  cases hb : s.busy with
  | true => rfl
  | false =>
    simp only [State.nextMove, hb, Bool.false_eq_true, if_false] at h
    split at h <;> cases h

/-- A move of the outside is the first it has to make. -/
theorem State.inputs_of_outside {i : Input} {rest : List Input} (h : s.nextMove = .outside i rest) :
    s.inputs = i :: rest := by
  unfold State.nextMove at h
  split at h <;> split at h <;> cases h <;> assumption

/-- A step that answers a next state was idle, a command of the engine, or a move of the outside. -/
theorem step_cases (h : step s = .next t) :
    (s.nextMove = .idle ∧ t = s) ∨
    (s.nextMove = .engine ∧ exec s.act.cmd s.spendTurn = .next t) ∨
    (∃ i rest, s.nextMove = .outside i rest ∧ outsideStep i (s.outsideView rest) = .next t) := by
  unfold step at h
  split at h
  · cases h; exact .inl ⟨by assumption, rfl⟩
  · exact .inr (.inl ⟨by assumption, h⟩)
  · exact .inr (.inr ⟨_, _, by assumption, h⟩)

/-- A host register access that is not refused is 32 bits wide, aligned, and in the window. -/
theorem regAccess_ok {p : Platform} {addr : Word} {bits : Nat} {r : Reg} (h : regAccess p addr bits = .ok r) :
    addr.extractLsb' 6 26 = p.engineBlock ∧ bits = 32 ∧ addr.toNat % 4 = 0 ∧
      r = regAt (addr.extractLsb' 0 6).toNat := by
  unfold regAccess at h
  split at h
  · cases h
  · split at h
    · cases h
    · split at h
      · cases h
      · cases h
        exact ⟨by_contra (by assumption), by omega, by omega, rfl⟩

/-- A move of the outside that answers a next state delivered a value, wrote a register, polled, wrote one byte of FBMEM
outside a busy region, gave the scanout reader a byte, or reset the block. -/
theorem outsideStep_cases {i : Input} (h : outsideStep i s = .next t) :
    (∃ addr r, i = .regRead addr 32 ∧ regAccess s.platform addr 32 = .ok r ∧ t = s.deliver (.reg (s.regValue r))) ∨
    (∃ addr r v, i = .regWrite addr 32 v ∧ regAccess s.platform addr 32 = .ok r ∧ t = s.regWrite r v) ∨
    (i = .wait ∧ t = { s.deliver (.reg s.statusWord) with inputs := if s.busy then .wait :: s.inputs else s.inputs }) ∨
    (∃ a, i = .fbRead a 8 ∧ t = { s.deliver (.byte (s.outsideByte a)) with draws := s.outsideDraws a }) ∨
    (∃ a v, i = .fbWrite a 8 v ∧ s.inBusyRegion a = false ∧
      t = { s with fbmem := Mem.write s.fbmem a.toNat (v.setWidth 8) }) ∨
    (∃ a, i = .scanRead a ∧ t = { s with scanned := s.scanned ++ [s.outsideByte a], draws := s.outsideDraws a }) ∨
    (i = .reset ∧ s.busy = false ∧ t = s.resetRegs) ∨
    (i = .reset ∧ s.busy = true ∧ s.regionValid = true ∧ t = s.scramble.resetRegs) := by
  cases i with
  | regRead addr bits =>
    simp only [outsideStep, hostRegRead] at h
    split at h
    · cases h
    · rename_i r hr
      obtain ⟨-, rfl, -, -⟩ := regAccess_ok hr
      cases h
      exact .inl ⟨addr, r, rfl, hr, rfl⟩
  | regWrite addr bits v =>
    simp only [outsideStep, hostRegWrite] at h
    split at h
    · cases h
    · rename_i r hr
      obtain ⟨-, rfl, -, -⟩ := regAccess_ok hr
      cases h
      exact .inr (.inl ⟨addr, r, v, rfl, hr, rfl⟩)
  | wait =>
    simp only [outsideStep, hostWait] at h
    refine .inr (.inr (.inl ⟨rfl, ?_⟩))
    cases h
    cases s.busy <;> rfl
  | fbRead a bits =>
    simp only [outsideStep, hostFbRead] at h
    split at h
    · cases h
    · rename_i hb
      obtain rfl : bits = 8 := by omega
      cases h
      exact .inr (.inr (.inr (.inl ⟨a, rfl, rfl⟩)))
  | fbWrite a bits v =>
    simp only [outsideStep, hostFbWrite] at h
    split at h
    · cases h
    · rename_i hb
      obtain rfl : bits = 8 := by omega
      split at h
      · cases h
      · rename_i hr
        cases h
        exact .inr (.inr (.inr (.inr (.inl ⟨a, v, rfl, by simpa using hr, rfl⟩))))
  | scanRead a =>
    cases h
    exact .inr (.inr (.inr (.inr (.inr (.inl ⟨a, rfl, rfl⟩)))))
  | reset =>
    simp only [outsideStep, resetBlock] at h
    split at h
    · rename_i hb
      obtain ⟨h1, h2⟩ := State.engineStep_next h
      cases h2
      exact .inr (.inr (.inr (.inr (.inr (.inr (.inr ⟨rfl, hb, h1, rfl⟩))))))
    · rename_i hb
      cases h
      exact .inr (.inr (.inr (.inr (.inr (.inr (.inl ⟨rfl, by simpa using hb, rfl⟩))))))

end Sys2Proof.Machine
end

