-- ==== Sys2Proof/Tests/Slice0.lean ====
section
/-! SUPPORT. Tests of single steps, with expected values from spec/95_test_vectors.md (each test's name ends in its
vector), words written out from the encodings of spec/30_encoding.md, and for each statement with hypotheses a witness
that meets them all. -/

namespace Sys2Proof.Tests

open Sys2Proof.Machine

/-! ### Well-formed words: one refused word per check -/

theorem test_wf_accepts : WellFormed.legal 0x00000357#32 = true := by decide
theorem test_wf_refuses_opcode : WellFormed.opAssigned 0x0000000A#32 = false := by decide
theorem test_wf_refuses_mode : WellFormed.modeAllowed 0x00000011#32 = false := by decide
theorem test_wf_refuses_fill : WellFormed.fillAllowed 0x00000152#32 = false := by decide
theorem test_wf_refuses_fill_mode_alone : WellFormed.fillAllowed 0x00000102#32 = false := by decide
theorem test_wf_refuses_direction : WellFormed.dirAllowed 0x00001012#32 = false := by decide
theorem test_wf_refuses_reserved : WellFormed.reservedZero 0x00000092#32 = false ∧
    WellFormed.reservedZero 0x00000402#32 = false ∧ WellFormed.reservedZero 0x00008008#32 = false := by decide
theorem test_wf_fill_mode_ignored : WellFormed.legal 0x00000306#32 = true := by decide

/-! ### Decoding: words written bit by bit, bit 31 first, from 30 R71 and R76 -/

/-- A word from its fields as 30 R71 orders them. -/
def bits (z18 : BitVec 18) (dd : BitVec 2) (z2 : BitVec 2) (ff : BitVec 2) (z1 : BitVec 1) (e : BitVec 1) (mm : BitVec 2)
    (oooo : BitVec 4) : Word := z18 ++ dd ++ z2 ++ ff ++ z1 ++ e ++ mm ++ oooo

theorem test_decode_set_pixel : decode (bits 0 0b00 0 0b00 0 0 0b10 0b0000) = .ok (.setPixel .invert) := by rfl
theorem test_decode_get_pixel : decode (bits 0 0b00 0 0b00 0 0 0b00 0b0001) = .ok .getPixel := by rfl
theorem test_decode_fill : decode (bits 0 0b00 0 0b00 0 0 0b01 0b0010) = .ok (.fill .white) := by rfl
theorem test_decode_draw_row : decode (bits 0 0b00 0 0b00 0 0 0b11 0b0011) = .ok (.drawRow .noOp) := by rfl
theorem test_decode_draw_column : decode (bits 0 0b00 0 0b00 0 0 0b00 0b0100) = .ok (.drawColumn .black) := by rfl
theorem test_decode_draw_line : decode (bits 0 0b00 0 0b00 0 0 0b10 0b0101) = .ok (.drawLine .invert) := by rfl
theorem test_decode_draw_rect : decode (bits 0 0b00 0 0b10 0 1 0b01 0b0110) = .ok (.drawRect .white true .invert) := by rfl
theorem test_decode_draw_circle : decode (bits 0 0b00 0 0b01 0 0 0b11 0b0111) = .ok (.drawCircle .noOp false .white) := by rfl
theorem test_decode_shift : decode (bits 0 0b10 0 0b00 0 0 0b00 0b1000) = .ok (.shift .left) := by rfl
theorem test_decode_bitmap : decode (bits 0 0b00 0 0b00 0 0 0b00 0b1001) = .ok .bitmap := by rfl
theorem test_decode_reserved : decode 0x0000000F#32 = .error .reservedOpcode := by rfl
theorem test_decode_must_be_zero : decode 0x00004009#32 = .error .mustBeZero := by rfl

/-! ### A helper: a busy state over a small framebuffer at 0x20000000 -/

/-- The platform of 95_test_vectors.md, with its SRCMEM byte 0x1000 readable. -/
def bench : Platform := ⟨0x1234#26, .harden, [⟨0x20000000, 0x400⟩], [⟨0x1000, 1⟩]⟩

/-- A busy state: the latched command, its operand words, the geometry and the region's non-zero bytes by offset. -/
def busyWith (i : Instr) (a0 a1 : Word) (w h : BitVec 15) (fb : List (Nat × Byte)) : State :=
  { State.reset with
    busy := true
    arg0 := a0
    arg1 := a1
    arg2 := 0x1000#32
    fbBase := 0x20000000#32
    fbWidth := w
    fbHeight := h
    act := ⟨i, a0, a1, 0x1000#32, 0x20000000#32, w, h⟩
    fbmem := fb.map fun c => (0x20000000 + c.1, c.2)
    srcmem := [(0x1000, 0xB3#8)]
    platform := bench }

/-- The first `n` bytes of the region after the engine step of the latched command. -/
def regionAfter (n : Nat) (s : State) : Option (List Byte) :=
  match exec s.act.cmd s with
  | .next t => some ((List.range n).map fun i => Mem.read t.fbmem (0x20000000 + i))
  | _ => none

/-- A part of the next state. -/
def after {α : Type} (f : State → α) (o : Host.Outcome State Fault Refusal) : Option α :=
  match o with
  | .next t => some (f t)
  | _ => none

/-! ### One step per command, from the vectors of 95_test_vectors.md -/

theorem test_set_pixel_L2_FB_6 :
    regionAfter 2 (busyWith (.setPixel .invert) 0x0000000F#32 0 16 1 [(0, 0x80#8)]) = some [0x80#8, 0x01#8] := by decide
theorem test_set_pixel_padding_L2_FB_4 :
    regionAfter 2 (busyWith (.setPixel .white) 0x0000000C#32 0 12 1 []) = some [0x00#8, 0x00#8] := by decide
theorem test_get_pixel_L2_FB_9 :
    after (·.result) (exec .getPixel (busyWith .getPixel 0x0000000B#32 0 12 1 [(0, 0xFF#8), (1, 0xFF#8)])) = some 1#1 := by
  decide
theorem test_get_pixel_padding_L2_FB_9 :
    after (·.result) (exec .getPixel (busyWith .getPixel 0x0000000C#32 0 12 1 [(0, 0xFF#8), (1, 0xFF#8)])) = some 0#1 := by
  decide
theorem test_fill_L2_FB_12 :
    regionAfter 2 (busyWith (.fill .invert) 0 0 16 1 [(0, 0x0F#8), (1, 0xA5#8)]) = some [0xF0#8, 0x5A#8] := by decide
theorem test_fill_padding_L2_FB_11 :
    regionAfter 4 (busyWith (.fill .white) 0 0 12 2 []) = some [0xFF#8, 0xFF#8, 0xFF#8, 0xFF#8] := by decide
theorem test_draw_row_L2_SPAN_5 :
    regionAfter 2 (busyWith (.drawRow .white) 0x00070000#32 0x00000008#32 16 1 []) = some [0x01#8, 0x80#8] := by decide
theorem test_draw_row_clip_L2_SPAN_7 :
    regionAfter 2 (busyWith (.drawRow .white) 0xFFFB0000#32 0x00000003#32 16 1 []) = some [0xF0#8, 0x00#8] := by decide
theorem test_draw_column_L2_SPAN_14 :
    regionAfter 4 (busyWith (.drawColumn .white) 0x00030002#32 0x00000001#32 8 4 []) =
      some [0x00#8, 0x20#8, 0x20#8, 0x20#8] := by decide
theorem test_draw_line_L2_LINE_10 :
    regionAfter 4 (busyWith (.drawLine .invert) 0x00030007#32 0x00000000#32 8 4 []) =
      some [0x40#8, 0x30#8, 0x0C#8, 0x03#8] := by decide
theorem test_draw_line_reverse_L2_LINE_7r :
    regionAfter 4 (busyWith (.drawLine .white) 0x00020001#32 0x00000000#32 8 4 []) =
      some [0x80#8, 0x40#8, 0x40#8, 0x00#8] := by decide
theorem test_draw_rect_L2_RECT_11 :
    regionAfter 5 (busyWith (.drawRect .invert false .black) 0x00010001#32 0x00020004#32 8 8 []) =
      some [0x00#8, 0x78#8, 0x44#8, 0x78#8, 0x00#8] := by decide
theorem test_draw_rect_filled_L2_RECT_7 :
    regionAfter 5 (busyWith (.drawRect .black true .white) 0x00010001#32 0x00030004#32 8 8 []) =
      some [0x00#8, 0x7C#8, 0x7C#8, 0x7C#8, 0x00#8] := by decide
theorem test_draw_circle_L2_CIRC_3 :
    regionAfter 8 (busyWith (.drawCircle .white false .black) 0x00030003#32 0x00000002#32 8 8 []) =
      some [0x00#8, 0x38#8, 0x44#8, 0x44#8, 0x44#8, 0x38#8, 0x00#8, 0x00#8] := by decide
theorem test_draw_circle_filled_L2_CIRC_8 :
    regionAfter 8 (busyWith (.drawCircle .white true .invert) 0x00030003#32 0x00000003#32 8 8 []) =
      some [0x10#8, 0x00#8, 0xFE#8, 0x7C#8, 0xFE#8, 0x00#8, 0x10#8, 0x00#8] := by decide
theorem test_shift_left_L2_SHIFT_9 :
    regionAfter 2 (busyWith (.shift .left) 0x00000004#32 0 12 1 [(1, 0x0F#8)]) = some [0x00#8, 0xF0#8] := by decide
theorem test_shift_up_L2_SHIFT_4 :
    regionAfter 6 (busyWith (.shift .up) 0x00000002#32 0 16 3
      [(0, 0x81#8), (1, 0x42#8), (2, 0x24#8), (3, 0x18#8), (4, 0xF0#8), (5, 0x0F#8)]) =
      some [0xF0#8, 0x0F#8, 0x00#8, 0x00#8, 0x00#8, 0x00#8] := by decide
theorem test_bitmap_L1_D_sentinel :
    regionAfter 2 (busyWith .bitmap 0x00000005#32 0x01080000#32 16 1 [(0, 0xFF#8), (1, 0xFF#8)]) =
      some [0xFD#8, 0x9F#8] := by decide
theorem test_bitmap_unreadable_L2_BLIT_12 :
    exec .bitmap (busyWith .bitmap 0x00000005#32 0x01100000#32 16 1 []) = .fault .srcUnreadable := by rfl

/-! ### The step, the host's side and the first step after reset -/

/-- Every row of the opcode table, placed at reset, runs as the very next step. -/
theorem test_first_step_after_reset :
    ∀ w ∈ [0x00000000, 0x00000001, 0x00000002, 0x00000003, 0x00000004, 0x00000005, 0x00000006, 0x00000007, 0x00000008,
      0x00000009], after (·.busy) (step (State.reset.withFetchWord 32 w)) = some false := by decide

theorem test_write_width_L2_STAT_13 :
    ((State.reset.regWrite .fbWidth 0xFFFF8011#32).regValue .fbWidth,
      (State.reset.regWrite .fbWidth 0xFFFF8011#32).regValue .fbStride) = (0x00000011#32, 0x00000003#32) := by decide

theorem test_illegal_while_busy_L2_STAT_10 :
    ((busyWith (.fill .white) 0 0 16 1 []).regWrite .cmd 0x0000000A#32).statusWord = 0x00000005#32 := by decide

theorem test_clear_illegal_L2_STAT_9 :
    ((State.reset.regWrite .cmd 0x0000000A#32).statusWord,
      ((State.reset.regWrite .cmd 0x0000000A#32).regWrite .status 0x00000002#32).statusWord) =
      (0x00000002#32, 0x00000000#32) := by decide

/-- The example of 30 R83: `draw_row 3, 2, 9, white`. -/
theorem test_assemble_R83 :
    (Line.drawRow 3 2 9 .white).assemble bench =
      [writeReg bench .arg0 0x00020003#32, writeReg bench .arg1 0x00000009#32, writeReg bench .cmd 0x00000013#32,
        .wait] := by decide

/-! ### Witnesses: for each statement with hypotheses, states and operands that meet them, one per clause -/

/-- Both memories canonical and the region valid. -/
abbrev Ready (s : State) : Prop := s.memoriesWf = true ∧ s.regionValid = true

/-- A state in which a command on a framebuffer of 16 x 2 pixels is in progress. -/
def running (i : Instr) (a0 a1 : Word) : State := busyWith i a0 a1 16 2 [(0, 0x80#8), (3, 0x01#8)]

/-- An idle state with the outside's moves still to be made. -/
def idleWith (ins : List Input) : State := { running .getPixel 0 0 with busy := false, inputs := ins }

/-- A busy state with the outside's moves still to be made, in this order of turns. -/
def busyTurns (i : Instr) (ins : List Input) (ts : List Mover) : State := { running i 0 0 with inputs := ins, turns := ts }

/-- A command whose region of one row starts at `base`, with the top 256 bytes of FBMEM backed. -/
def atTop (i : Instr) (base : Word) (w h : BitVec 15) : State :=
  { running i 0 0 with
    platform := { bench with fbBacked := [⟨0xFFFFFF00, 0x100⟩] }
    fbmem := []
    act := { (running i 0 0).act with base := base, w := w, h := h } }

/-- A busy state whose platform draws the bit of a negative GET_PIXEL. -/
def drawing (i : Instr) (a0 : Word) (w h : BitVec 15) : State :=
  { busyWith i a0 0 w h [] with platform := Platform.atReset }

/-- A region that ends exactly at 2^32 is valid. -/
theorem witness_region_ends_at_top : Ready (atTop (.fill .white) 0xFFFFFFFE#32 16 1) := by decide

theorem witness_StepRunsLatchedCommand :
    (busyTurns .getPixel [] [.outside]).busy = true ∧ (busyTurns .getPixel [] [.outside]).inputs = [] ∧
    (busyTurns .getPixel [.wait] [.engine]).busy = true ∧
    (busyTurns .getPixel [.wait] [.engine]).turns.head? ≠ some .outside ∧
    (busyTurns .getPixel [.wait] []).turns.head? ≠ some .outside ∧
    decodeTableWord 32 0x00003008 = some (.shift .right) ∧
    (idleWith []).busy = false ∧ (idleWith []).inputs = [] := by decide

theorem witness_CmdWriteAcceptsOrReports :
    (busyTurns .getPixel [] []).busy = true ∧ (idleWith []).busy = false ∧
    WellFormed.legal 0x0000000A#32 = false ∧ WellFormed.legal 0x00003008#32 = true := by decide

theorem witness_AcceptedCommandRunsNext :
    (idleWith [writeReg bench .cmd 0x00000009#32]).busy = false ∧ decode 0x00000009#32 = .ok .bitmap ∧
    (idleWith [writeReg bench .cmd 0x00000009#32]).inputs =
      writeReg (idleWith [writeReg bench .cmd 0x00000009#32]).platform .cmd 0x00000009#32 :: [] ∧
    ({ idleWith [writeReg bench .cmd 0x00000009#32, .wait] with turns := [.engine] }).turns.head? ≠ some .outside :=
  ⟨rfl, rfl, rfl, by decide⟩

theorem witness_InvalidRegionFaults_past_top :
    0 < (atTop .getPixel 0xFFFFFFFE#32 24 1).act.geom.bytes ∧
    2 ^ 32 < (atTop .getPixel 0xFFFFFFFE#32 24 1).act.geom.base + (atTop .getPixel 0xFFFFFFFE#32 24 1).act.geom.bytes := by
  decide

theorem witness_InvalidRegionFaults_unmapped :
    0 < (atTop .getPixel 0xFFFFFEFF#32 8 1).act.geom.bytes ∧
    fbMapped (atTop .getPixel 0xFFFFFEFF#32 8 1).platform 0xFFFFFEFF (atTop .getPixel 0xFFFFFEFF#32 8 1).act.geom.bytes =
      false := by decide

theorem witness_InvalidRegionFaults_empty :
    (atTop (.fill .white) 0#32 0 9).act.geom.bytes = 0 ∧
    ∃ t, exec (.fill .white) (atTop (.fill .white) 0#32 0 9) = .next t := ⟨rfl, _, rfl⟩

/-- A framebuffer of 12 x 2 pixels, and its memory. -/
def grid : Geom := ⟨0x20000000, 12, 2⟩
def gridMem : Mem := [(0x20000000, 0x81#8), (0x20000003, 0x0F#8)]

theorem witness_PlotActsOnOnePixel :
    Mem.wf gridMem = true ∧ grid.base + grid.bytes ≤ 2 ^ 32 ∧
    grid.contains 12 0 = false ∧ grid.contains 11 1 = true ∧ (15 < 8 * grid.stride ∧ 1 < grid.h) ∧
    Mem.read (plotOne grid gridMem ⟨11, 1, .white⟩) 0x20000003 ≠ Mem.read gridMem 0x20000003 := by decide

theorem witness_SetPixelDrawsItsPixel : Ready (running (.setPixel .white) 0x0001000F#32 0) := by decide

theorem witness_GetPixelReadsIntoResult :
    (running .getPixel 0xFFFF0010#32 0).regionValid = true ∧
    ((running .getPixel 0xFFFF0010#32 0).act.geom.w : Int) ≤ (running .getPixel 0xFFFF0010#32 0).act.coord0 ∧
    (running .getPixel 0x0001FFFF#32 0).act.coord0 < 0 ∧
    (running .getPixel 0x0001FFFF#32 0).act.coord1 < (running .getPixel 0x0001FFFF#32 0).act.geom.h ∧
    (running .getPixel 0x0001FFFF#32 0).platform.negRead = .harden ∧ (drawing .getPixel 0x0001FFFF#32 16 2).act.coord0 < 0 ∧
    (drawing .getPixel 0x0001FFFF#32 16 2).regionValid = true ∧
    (drawing .getPixel 0x0001FFFF#32 16 2).act.coord1 < (drawing .getPixel 0x0001FFFF#32 16 2).act.geom.h ∧
    (drawing .getPixel 0x0001FFFF#32 16 2).platform.negRead = .draw ∧
    (running .getPixel 0x0001000F#32 0).act.coord0 = (15 : Nat) ∧
    (running .getPixel 0x0001000F#32 0).act.coord1 = (1 : Nat) := by decide

theorem witness_FillWritesEveryByte : Ready (running (.fill .invert) 0 0) := by decide

theorem witness_FrameBufferLaws :
    Ready (running .getPixel 0x0001000F#32 0) ∧
    15 < (running .getPixel 0x0001000F#32 0).act.geom.w ∧ 1 < (running .getPixel 0x0001000F#32 0).act.geom.h := by decide

theorem witness_DrawRowDrawsTheInclusiveSpan : Ready (running (.drawRow .white) 0x00100001#32 0x0000FFFF#32) := by decide

theorem witness_DrawColumnDrawsTheInclusiveSpan :
    Ready (running (.drawColumn .white) 0x0002000F#32 0x0000FFFF#32) := by decide

theorem witness_LineLoopEndsAtTheEndpoint :
    ¬((-1 : Int) = 4 ∧ (2 : Int) = 0) ∧ linePasses (lineParams (-1) 2 4 0) ≤ 6 := by decide

theorem witness_DrawLineTogglesItsEndpointTwice :
    Ready (running (.drawLine .invert) 0x00000000#32 0x0001000F#32) ∧
    Ready (running (.drawLine .invert) 0x0001000F#32 0x0001000F#32) := by decide

theorem witness_CircleLoopMakesAtMostRadiusPasses :
    (3 : Nat) ≤ 3 ∧ circlePasses 1 = [] ∧ circlePasses 2 ≠ [] := by decide

theorem witness_DrawCircleMakesItsPlots : Ready (running (.drawCircle .white true .invert) 0x00000003#32 3) := by decide

theorem witness_SmallCirclesAreCardinalPoints :
    Ready (running (.drawCircle .white false .black) 0 0) ∧
    (running (.drawCircle .white false .black) 0 0).act.size2 = 0 ∧
    Ready (running (.drawCircle .white false .black) 0 1) ∧
    (running (.drawCircle .white false .black) 0 1).act.size2 = 1 := by decide

theorem witness_DrawRectMakesItsPlots : Ready (running (.drawRect .white false .black) 0 0x00010002#32) := by decide

theorem witness_RectOutlineCoversTheBorder :
    (Mode.white ≠ .invert) ∧ Ready (running (.drawRect .white false .black) 0xFFFFFFFF#32 0xFFFFFFFF#32) := by decide

theorem witness_FilledRectCoversItsRows : Ready (running (.drawRect .white true .invert) 0 0x00000001#32) := by decide

theorem witness_ShiftMovesEveryBit :
    Ready (running (.shift .left) 0x00000010#32 0) ∧ 1 < (running (.shift .left) 16 0).act.geom.h ∧
    15 < 8 * (running (.shift .left) 16 0).act.geom.stride := by decide

theorem witness_ShiftRoundTrip :
    Ready (running (.shift .left) 0x00000001#32 0) ∧ 1 < (running (.shift .left) 1 0).act.geom.stride := by decide

theorem witness_HeaderTakesZeroOperands :
    (running .bitmap 0 0).srcRead (0x1000 + 0) = some 0xB3#8 ∧ State.reset.srcRead (0xFFFFFFFE + 0) = some 0x00#8 ∧
    State.reset.srcRead (0xFFFFFFFE + 0 + 1) = some 0x00#8 ∧
    State.reset.srcRead (0xFFFFFFFF + 1) = none ∧ State.reset.srcRead (0xFFFFFFFF + 0 + 1) = none := by decide

theorem witness_BitmapCopiesItsSourcePixels :
    Ready (running .bitmap 0x0001000C#32 0x01080000#32) ∧
    readHeader (running .bitmap 0x0001000C#32 0x01080000#32).srcRead 0x1000 0 8 1 = some ⟨8, 1, 0⟩ ∧
    ∀ n, n < 1 * ((8 + 7) / 8) → ((running .bitmap 0x0001000C#32 0x01080000#32).srcRead (0x1000 + 0 + n)).isSome = true := by
  decide

theorem witness_UnreadableSourceFaults :
    (running .bitmap 0 0x00000000#32).regionValid = true ∧
    readHeader (running .bitmap 0 0x00000000#32).srcRead 0x1000 0 0 0 = none ∧
    readHeader (running .bitmap 0 0x01090000#32).srcRead 0x1000 0 9 1 = some ⟨9, 1, 0⟩ ∧
    ((1 : Nat) < 1 * ((9 + 7) / 8) ∧ (running .bitmap 0 0x01090000#32).srcRead (0x1000 + 0 + 1) = none) := by decide

theorem witness_UnreadableSourceFaults_header :
    (running .bitmap 0 0x00000001#32).act.bitmapWidth = 0 ∧
    (running .bitmap 0 0x00000001#32).srcRead (0x1000 + (running .bitmap 0 0x00000001#32).act.size2) = none ∧
    (running .bitmap 0 0x01000001#32).act.bitmapWidth = 0 ∧ (running .bitmap 0 0x00080001#32).act.bitmapHeight = 0 ∧
    (running .bitmap 0 0).act.bitmapWidth = 0 ∧ (running .bitmap 0 0).act.bitmapHeight = 0 ∧
    (running .bitmap 0 0).srcRead ((running .bitmap 0 0).act.source + (running .bitmap 0 0).act.size2 + 1) = none := by
  decide

theorem witness_BitmapIsIdempotent :
    (running .bitmap 0x0001000C#32 0x01080000#32).memoriesWf = true ∧
    ∃ t, exec .bitmap (running .bitmap 0x0001000C#32 0x01080000#32) = .next t := ⟨by decide, _, rfl⟩

theorem witness_CommandsWriteOnlyTheirRegion :
    (running (.shift .up) 1 0).memoriesWf = true ∧ (∃ t, exec (.shift .up) (running (.shift .up) 1 0) = .next t) ∧
    ∃ t, exec .getPixel (running .getPixel 1 0) = .next t := ⟨by decide, ⟨_, rfl⟩, _, rfl⟩

theorem witness_CommandsKeepTheRegisters :
    ∃ t, exec (.fill .white) (running (.fill .white) 0 0) = .next t := ⟨_, rfl⟩

theorem witness_PaddingKeptByPixelCommands :
    (busyWith (.setPixel .white) 0x0000000C#32 0 12 1 []).memoriesWf = true ∧
    (∃ t, exec (.setPixel .white) (busyWith (.setPixel .white) 0x0000000C#32 0 12 1 []) = .next t) ∧
    (12 : Nat) ≤ 12 ∧ 12 < 8 * (busyWith (.setPixel .white) 12 0 12 1 []).act.geom.stride := by
  exact ⟨by decide, ⟨_, rfl⟩, by decide, by decide⟩

theorem witness_CommandsReadOnlyTheirRegion :
    let s := busyWith .getPixel 0 0 8 1 [(0, 0x80#8)]
    let s' := busyWith .getPixel 0 0 8 1 [(0, 0x80#8), (1, 0xFF#8)]
    s.memoriesWf = true ∧ s'.memoriesWf = true ∧ s.act = s'.act ∧ s.platform = s'.platform ∧ s.srcmem = s'.srcmem ∧
    s.draws = s'.draws ∧ (∀ a, s.act.geom.inRegion a = true → Mem.read s.fbmem a = Mem.read s'.fbmem a) ∧
    ∃ t, exec .getPixel s = .next t := by
  refine ⟨by decide, by decide, rfl, rfl, rfl, rfl, ?_, _, rfl⟩
  intro a h
  simp only [Geom.inRegion, Bool.and_eq_true, decide_eq_true_eq] at h
  have hb : (0x20000000 : Nat) ≤ a ∧ a < 0x20000000 + 1 := h
  obtain rfl : a = 0x20000000 := by omega
  decide

theorem witness_CommandsReadOnlyTheirRegion_fault :
    exec .bitmap (running .bitmap 0 0) = .fault .srcUnreadable := rfl

theorem witness_StepKeepsMemoriesCanonical :
    (running (.fill .white) 0 0).memoriesWf = true ∧ ∃ t, step (running (.fill .white) 0 0) = .next t :=
  ⟨by decide, _, rfl⟩

theorem witness_StepKeepsLatchEqualToRegisters :
    (idleWith [writeReg bench .cmd 9]).latchFollows ∧ (busyTurns .getPixel [.wait] [.outside]).latchFollows ∧
    (∃ t, step (idleWith [writeReg bench .cmd 9]) = .next t ∧ t.busy = true) ∧
    ∃ t, step (busyTurns .getPixel [.wait] [.outside]) = .next t ∧ t.busy = true :=
  ⟨nofun, fun _ => by decide, ⟨_, rfl, rfl⟩, _, rfl, rfl⟩

theorem witness_StepKeepsSourceAndPlatform : ∃ t, step (running .bitmap 0 0x01080000#32) = .next t := ⟨_, rfl⟩

theorem witness_FlagsAreSetByTheirOneCause :
    (∃ t, step (idleWith [writeReg bench .cmd 0x0000000A#32]) = .next t ∧
      (idleWith [writeReg bench .cmd 0x0000000A#32]).illegal = false ∧ t.illegal = true) ∧
    ∃ t, step (busyTurns .getPixel [writeReg bench .fbHeight 1] [.outside]) = .next t ∧
      (busyTurns .getPixel [writeReg bench .fbHeight 1] [.outside]).overrun = false ∧ t.overrun = true :=
  ⟨⟨_, rfl, rfl, rfl⟩, _, rfl, rfl, rfl⟩

theorem witness_FbmemChangesOnlyByItsWriters :
    (∃ t, step (running (.fill .white) 0 0) = .next t ∧
      Mem.read t.fbmem 0x20000003 ≠ Mem.read (running (.fill .white) 0 0).fbmem 0x20000003) ∧
    ∃ t, step (busyTurns .getPixel [.fbWrite 0x20000004#32 8 0xFF#32] [.outside]) = .next t ∧
      Mem.read t.fbmem 0x20000004 ≠
        Mem.read (busyTurns .getPixel [.fbWrite 0x20000004#32 8 0xFF#32] [.outside]).fbmem 0x20000004 :=
  ⟨⟨_, rfl, by decide⟩, _, rfl, by decide⟩

/-- A reset while busy changes a byte that differs from the free value it gets. -/
theorem witness_FbmemChangesOnlyByItsWriters_reset : ∃ v : Byte,
    let s := { busyWith .getPixel 0 0 8 1 [(0, v)] with inputs := [.reset], turns := [.outside] }
    s.memoriesWf = true ∧ ∃ t, step s = .next t ∧ Mem.read t.fbmem 0x20000000 ≠ Mem.read s.fbmem 0x20000000 := by
  by_cases h : Config.freeByte 0 = 1#8
  · refine ⟨2#8, by decide, _, rfl, ?_⟩
    show Mem.read (Mem.cons 0x20000000 (Config.freeByte (0 + 0)) []) 0x20000000 ≠ 2#8
    rw [show 0 + 0 = 0 from rfl, h]; decide
  · refine ⟨1#8, by decide, _, rfl, ?_⟩
    show Mem.read (Mem.cons 0x20000000 (Config.freeByte (0 + 0)) []) 0x20000000 ≠ 1#8
    rw [show 0 + 0 = 0 from rfl]
    unfold Mem.cons
    split
    · decide
    · simpa [Mem.read, Mem.find] using h

theorem witness_ResultAndBusyChangeOnlyByTheirEvents :
    (∃ t, step (running .getPixel 0x0001000F#32 0) = .next t ∧ t.result ≠ (running .getPixel 0x0001000F#32 0).result) ∧
    (∃ t, step (idleWith [writeReg bench .cmd 9]) = .next t ∧ (idleWith [writeReg bench .cmd 9]).busy = false ∧
      t.busy = true) ∧
    ∃ t, step (busyTurns .getPixel [.reset] [.outside]) = .next t ∧ (busyTurns .getPixel [.reset] [.outside]).busy = true ∧
      t.busy = false := ⟨⟨_, rfl, by decide⟩, ⟨_, rfl, rfl, rfl⟩, _, rfl, rfl, rfl⟩

theorem witness_PollLoopEnds :
    (busyTurns .getPixel [.wait, .reset] [.outside, .outside, .engine]).busy = true ∧
    (busyTurns .getPixel [.wait, .reset] [.outside, .outside, .engine]).inputs = .wait :: [.reset] ∧
    (busyTurns .getPixel [.wait, .reset] [.outside, .outside, .engine]).regionValid = true ∧
    (busyTurns .getPixel [.wait, .reset] [.outside, .outside, .engine]).act.cmd ≠ .bitmap := by decide

/-- A BITMAP with a readable source, with moves still to be made. -/
def copying (ins : List Input) (ts : List Mover) : State :=
  { running .bitmap 0x0001000C#32 0x01080000#32 with inputs := ins, turns := ts }

theorem witness_PollLoopEnds_bitmap :
    (copying [.wait] [.outside]).regionValid = true ∧ (copying [.wait] [.outside]).act.cmd = .bitmap ∧
    (copying [.wait] [.outside]).SourceReadable :=
  ⟨by decide, rfl, ⟨8, 1, 0⟩, by decide, by decide⟩

theorem witness_WindowFollowsTheRegisterMap : (0x24#6).toNat % 4 = 0 ∧ (0x28#6).toNat % 4 = 0 ∧ (0x3C#6).toNat % 4 = 0 := by
  decide

theorem witness_OtherAccessesAreRefused :
    (idleWith [.regRead 0x00048D40#32 32]).nextMove = .outside (.regRead 0x00048D40#32 32) [] ∧
    (0x00048D40#32).extractLsb' 6 26 ≠ (idleWith []).platform.engineBlock ∧
    (idleWith [.regWrite 0x00048D3E#32 16 0]).nextMove = .outside (.regWrite 0x00048D3E#32 16 0) [] ∧
    (0x00048D3E#32).extractLsb' 6 26 = (idleWith []).platform.engineBlock ∧ (0x00048D3E#32).toNat % 4 ≠ 0 ∧
    (busyTurns .getPixel [.fbRead 0 16] [.outside]).nextMove = .outside (.fbRead 0 16) [] ∧
    (idleWith [.fbWrite 0 32 0]).nextMove = .outside (.fbWrite 0 32 0) [] := by decide

theorem witness_RegistersReadBack : (idleWith []).busy = false := by decide

theorem witness_BusyWritesAreDropped :
    (running .getPixel 0 0).busy = true ∧ (running .getPixel 0 0).overrun = false ∧
    Reg.fbHeight ∈ [Reg.cmd, .arg0, .arg1, .arg2, .fbBase, .fbWidth, .fbHeight] ∧
    Reg.fbStride ∈ [Reg.result, .fbStride, .reserved] := by decide

theorem witness_HostAccessOfBusyRegion :
    (running .getPixel 0 0).memoriesWf = true ∧ (running .getPixel 0 0).busy = true ∧
    (running .getPixel 0 0).act.geom.inRegion (0x20000000#32).toNat = true ∧
    (running .getPixel 0 0).act.geom.inRegion (0x20000003#32).toNat = true ∧
    (running .getPixel 0 0).act.geom.inRegion (0x20000004#32).toNat = false ∧
    (idleWith []).memoriesWf = true ∧ (idleWith []).busy = false := by decide

theorem witness_ScanoutReadChangesNothing :
    (running .getPixel 0 0).busy = true ∧ (running .getPixel 0 0).act.geom.inRegion (0x20000003#32).toNat = true ∧
    (running .getPixel 0 0).act.geom.inRegion (0x1FFFFFFF#32).toNat = false := by decide

theorem witness_IdleResetClearsOnlyRegisters : (idleWith [.reset]).busy = false := by decide

theorem witness_BusyResetFreesTheRegion :
    (atTop .getPixel 0xFFFFFFFE#32 24 1).busy = true ∧ (atTop .getPixel 0xFFFFFFFE#32 24 1).memoriesWf = true ∧
    (atTop .getPixel 0xFFFFFFFE#32 24 1).regionValid = false ∧
    (running .getPixel 0 0).busy = true ∧ Ready (running .getPixel 0 0) ∧
    3 < (running .getPixel 0 0).act.geom.bytes := by decide

theorem witness_EmptyFramebufferCommandsTouchNothing :
    (busyWith .getPixel 0xFFFFFFFF#32 0 0 0 []).act.w = 0#15 ∧ (busyWith .getPixel 0xFFFFFFFF#32 0 0 0 []).act.h = 0#15 ∧
    (busyWith .getPixel 0xFFFFFFFF#32 0 0 0 []).act.coord0 < 0 ∧ (busyWith .getPixel 0xFFFFFFFF#32 0 0 0 []).act.coord1 < 0 ∧
    (busyWith .getPixel 0xFFFFFFFF#32 0 0 0 []).platform.negRead = .harden ∧
    (drawing .getPixel 0xFFFFFFFF#32 0 0).act.w = 0#15 ∧ (drawing .getPixel 0xFFFFFFFF#32 0 0).act.h = 0#15 ∧
    (drawing .getPixel 0xFFFFFFFF#32 0 0).act.coord0 < 0 ∧ (drawing .getPixel 0xFFFFFFFF#32 0 0).act.coord1 < 0 ∧
    (drawing .getPixel 0xFFFFFFFF#32 0 0).platform.negRead = .draw := by decide

theorem witness_EmptyFramebufferCommandsTouchNothing_bitmap :
    ∃ t, exec .bitmap (busyWith .bitmap 0 0x01080000#32 0 0 []) = .next t := ⟨_, rfl⟩

theorem witness_OperandWriteRacesTheEngine :
    (busyTurns .getPixel [writeReg bench .arg0 7] [.engine]).busy = true ∧
    (busyTurns .getPixel [writeReg bench .arg0 7] [.engine]).regionValid = true ∧
    (busyTurns .getPixel [writeReg bench .arg0 7] [.engine]).act.cmd ≠ .bitmap ∧
    (busyTurns .getPixel [writeReg bench .arg0 7] [.outside]).inputs =
      [writeReg (busyTurns .getPixel [writeReg bench .arg0 7] [.outside]).platform .arg0 7] ∧
    (busyTurns .getPixel [writeReg bench .arg0 7] [.outside]).regionValid = true := by decide

theorem witness_OperandWriteRacesTheEngine_bitmap :
    (copying [writeReg bench .arg0 7] [.engine]).regionValid = true ∧
    (copying [writeReg bench .arg0 7] [.engine]).inputs =
      [writeReg (copying [writeReg bench .arg0 7] [.engine]).platform .arg0 7] ∧
    (copying [writeReg bench .arg0 7] [.engine]).SourceReadable :=
  ⟨by decide, rfl, ⟨8, 1, 0⟩, by decide, by decide⟩

theorem witness_AssembledLineLatchesItsCommand :
    (idleWith ((Line.drawRow 3 2 9 .white).assemble bench ++ [.reset])).busy = false ∧
    (idleWith ((Line.drawRow 3 2 9 .white).assemble bench ++ [.reset])).inputs =
      (Line.drawRow 3 2 9 .white).assemble (idleWith []).platform ++ [.reset] ∧
    (Reg.arg1, 0x00000009#32) ∈ (Line.drawRow 3 2 9 .white).operands ∧
    (Reg.arg2, 0x00001000#32) ∈ (Line.bitmap 1 2 4096 0 8 1).operands ∧
    (Line.setPixel (-32768) 32767 .white).inRange = true ∧ (Line.drawRect 0 (-1) 0 65535 .white none).inRange = true ∧
    (Line.bitmap 0 0 4294967295 65535 255 0).inRange = true := by decide

theorem witness_RowByteMethodEqualsSpan : Mem.wf gridMem = true ∧ grid.base + grid.bytes ≤ 2 ^ 32 := by decide

theorem witness_ShiftByteFormulasEqualBitShifts : 1 < grid.h ∧ 1 < grid.stride := by decide

theorem witness_InPlaceCopiesEqualRowShifts :
    Mem.wf gridMem = true ∧ grid.base + grid.bytes ≤ 2 ^ 32 ∧ 2 * 1 ≤ grid.h ∧ ¬2 * 2 ≤ grid.h := by decide

theorem witness_BlitByteMethodEqualsPixelCopy : Mem.wf gridMem = true ∧ grid.base + grid.bytes ≤ 2 ^ 32 := by decide

theorem witness_LaunchedRunsDeliverTheirReads :
    (idleWith []).busy = false ∧ (idleWith []).ended = true ∧
    (∃ t, step (idleWith [readReg bench .result]) = .next t) ∧ (∃ t, step (busyTurns .getPixel [.wait] [.outside]) = .next t) ∧
    ∃ t, step (idleWith [.fbRead 0x20000000#32 8]) = .next t :=
  ⟨by decide, by decide, ⟨_, rfl⟩, ⟨_, rfl⟩, _, rfl⟩

/-! ### The byte method of BITMAP is clipped, by hand from 45 R203 and R205 -/

/-- At column 8 of 12, eight columns of ones light columns 8 to 11 and no padding bit. -/
theorem test_blit_bytes_keeps_padding :
    (blitByBytes ⟨0, 12, 1⟩ 8 0 ⟨8, 1, 0⟩ [0xFF#8] []) = [(1, 0xF0#8)] := by decide

/-- At column -3, the last five columns of 10110011 land in columns 0 to 4; the row above the framebuffer is dropped. -/
theorem test_blit_bytes_negative :
    (blitByBytes ⟨0, 16, 1⟩ (-3) (-1) ⟨8, 2, 0⟩ [0xFF#8, 0xB3#8] []) = [(0, 0x98#8)] := by decide

end Sys2Proof.Tests
end

section
/-! The scope family (spec/00_scope.md): the operands as the fields of the latched ARG words, GET_PIXEL, and what no step
changes. -/

namespace Sys2Proof.Machine

/-! ### Operand fields (00 R12) -/

theorem sext16_mem_range (v : Word) (lo : Nat) : -32768 ≤ sext16 v lo ∧ sext16 v lo < 32768 :=
  ⟨BitVec.le_toInt (v.extractLsb' lo 16), BitVec.toInt_lt (x := v.extractLsb' lo 16)⟩

theorem zext16_eq (v : Word) (lo : Nat) : zext16 v lo = v.toNat / 2 ^ lo % 65536 := by
  rw [zext16, BitVec.extractLsb'_toNat, Nat.shiftRight_eq_div_pow]

theorem zext8_eq (v : Word) (lo : Nat) : zext8 v lo = v.toNat / 2 ^ lo % 256 := by
  rw [zext8, BitVec.extractLsb'_toNat, Nat.shiftRight_eq_div_pow]

/-- The two extensions of a field are congruent, as both are encoded by its 16 bits. -/
theorem sext16_emod (v : Word) (lo : Nat) : sext16 v lo % 65536 = zext16 v lo := by
  calc sext16 v lo % 65536
      = (zext16 v lo : Int).bmod 65536 % 65536 := congrArg (· % 65536) (BitVec.toInt_eq_toNat_bmod _)
    _ = (zext16 v lo : Int) % 65536 := Int.bmod_emod ..
    _ = zext16 v lo := Int.emod_eq_of_lt (by omega) (by exact_mod_cast (v.extractLsb' lo 16).isLt)

theorem sext16_low_emod (v : Word) : sext16 v 0 % 65536 = (v.toNat : Int) % 65536 := by
  rw [sext16_emod, zext16_eq]
  omega

theorem sext16_high_emod (v : Word) : sext16 v 16 % 65536 = (v.toNat : Int) / 65536 := by
  have hv := v.isLt
  rw [sext16_emod, zext16_eq]
  omega

theorem zext16_low (v : Word) : zext16 v 0 = v.toNat % 65536 := by
  rw [zext16_eq, Nat.pow_zero, Nat.div_one]

theorem zext16_high (v : Word) : zext16 v 16 = v.toNat / 65536 := by
  have hv := v.isLt
  rw [zext16_eq]
  omega

theorem zext8_top (v : Word) : zext8 v 24 = v.toNat / 16777216 := by
  have hv := v.isLt
  rw [zext8_eq]
  omega

/-- Settles O5: each operand is one extension of one field, whose range and value the lemmas above give. -/
theorem operandsAreTheirFields : Obligations.OperandsAreTheirFields := by
  intro a
  exact ⟨⟨sext16_mem_range _ _, sext16_low_emod _⟩, ⟨sext16_mem_range _ _, sext16_high_emod _⟩,
    ⟨sext16_mem_range _ _, sext16_low_emod _⟩, ⟨sext16_mem_range _ _, sext16_high_emod _⟩,
    zext16_low _, zext16_low _, zext16_high _, zext8_eq _ 16, zext8_top _, rfl⟩

/-! ### The cases of `get_pixel` (40 R102) -/

section

variable {s : State} {x y : Int}

theorem Geom.missesAbove_iff (g : Geom) (x y : Int) : g.missesAbove x y = true ↔ (g.w : Int) ≤ x ∨ (g.h : Int) ≤ y := by
  simp [Geom.missesAbove]

theorem Geom.missesAbove_eq_false {g : Geom} (hx : x < g.w) (hy : y < g.h) : g.missesAbove x y = false := by
  rw [← Bool.not_eq_true, Geom.missesAbove_iff]
  omega

theorem State.drawsBit_iff (s : State) (x y : Int) :
    s.drawsBit x y = true ↔
      s.act.geom.missesAbove x y = false ∧ (x < 0 ∨ y < 0) ∧ s.platform.negRead = .draw := by
  simp [State.drawsBit, and_assoc]

/-- On an upper-bound miss no bit is drawn, even for a negative other coordinate. -/
theorem State.pixelResult_of_missesAbove (h : s.act.geom.missesAbove x y = true) :
    s.pixelResult x y = 0#1 ∧ s.drawsBit x y = false := by
  simp [State.pixelResult, State.drawsBit, h]

theorem State.pixelResult_of_drawsBit (h : s.drawsBit x y = true) : s.pixelResult x y = Config.freeBit s.draws := by
  have hm := ((s.drawsBit_iff x y).1 h).1
  simp [State.pixelResult, hm, h]

theorem State.pixelResult_of_negative_harden (hn : x < 0 ∨ y < 0) (hp : s.platform.negRead = .harden) :
    s.pixelResult x y = 0#1 ∧ s.drawsBit x y = false := by
  have hd : s.drawsBit x y = false := by simp [State.drawsBit, hp]
  simp [State.pixelResult, hd, hn]

theorem State.pixelResult_of_inside {x y : Nat} (hx : x < s.act.geom.w) (hy : y < s.act.geom.h) :
    s.pixelResult x y = s.pixelAt x y ∧ s.drawsBit x y = false := by
  have hm : s.act.geom.missesAbove x y = false := Geom.missesAbove_eq_false (by omega) (by omega)
  have hn : ¬((x : Int) < 0 ∨ (y : Int) < 0) := by omega
  have hd : s.drawsBit x y = false := by
    rw [← Bool.not_eq_true, State.drawsBit_iff]
    exact fun h => hn h.2.1
  simp [State.pixelResult, State.pixelAt, hm, hd, hn]

end

theorem exec_getPixel {s : State} (h : s.regionValid = true) :
    exec .getPixel s = .next (s.readPixel s.act.coord0 s.act.coord1).finish := by
  rw [exec, execGetPixel, s.engineStep_valid h]

/-- Settles O13: RESULT is `pixelResult` and the count moves as `drawsBit` says, one case of 40 R102 after another. -/
theorem getPixelReadsIntoResult : Obligations.GetPixelReadsIntoResult := by
  intro s hv
  refine ⟨s.pixelResult s.act.coord0 s.act.coord1,
    if s.drawsBit s.act.coord0 s.act.coord1 then s.draws + 1 else s.draws, exec_getPixel hv, ?_, ?_, ?_⟩
  · intro hmiss
    obtain ⟨hr, hd⟩ := State.pixelResult_of_missesAbove ((Geom.missesAbove_iff ..).2 hmiss)
    exact ⟨hr, by rw [hd]; rfl⟩
  · intro hx hy hneg
    constructor
    · intro hp
      obtain ⟨hr, hd⟩ := State.pixelResult_of_negative_harden hneg hp
      exact ⟨hr, by rw [hd]; rfl⟩
    · intro hp
      have hd := (s.drawsBit_iff _ _).2 ⟨Geom.missesAbove_eq_false hx hy, hneg, hp⟩
      exact ⟨State.pixelResult_of_drawsBit hd, if_pos hd⟩
  · intro x y hx hy hw hh
    rw [hx, hy]
    obtain ⟨hr, hd⟩ := State.pixelResult_of_inside (s := s) hw hh
    exact ⟨hr, by rw [hd]; rfl⟩

/-! ### What no move changes (10 R38) -/

section

variable {s t : State}

theorem exec_keeps_source_platform {i : Instr} (h : exec i s = .next t) :
    t.srcmem = s.srcmem ∧ t.platform = s.platform := by
  obtain ⟨-, ⟨ps, rfl⟩ | ⟨f, rfl⟩ | ⟨-, rfl⟩ | ⟨-, rfl⟩⟩ := exec_cases h <;> exact ⟨rfl, rfl⟩

theorem State.whenIdle_keeps_source_platform (h : t.srcmem = s.srcmem ∧ t.platform = s.platform) :
    (s.whenIdle t).srcmem = s.srcmem ∧ (s.whenIdle t).platform = s.platform := by
  unfold State.whenIdle
  split
  · exact ⟨rfl, rfl⟩
  · exact h

theorem State.submit_keeps_source_platform (s : State) (v : Word) :
    (s.submit v).srcmem = s.srcmem ∧ (s.submit v).platform = s.platform := by
  unfold State.submit
  split <;> exact ⟨rfl, rfl⟩

theorem State.regWrite_keeps_source_platform (s : State) (r : Reg) (v : Word) :
    (s.regWrite r v).srcmem = s.srcmem ∧ (s.regWrite r v).platform = s.platform := by
  cases r with
  | cmd => exact State.whenIdle_keeps_source_platform (s.submit_keeps_source_platform v)
  | result | status | fbStride | reserved => exact ⟨rfl, rfl⟩
  | arg0 | arg1 | arg2 | fbBase | fbWidth | fbHeight => exact State.whenIdle_keeps_source_platform ⟨rfl, rfl⟩

theorem outsideStep_keeps_source_platform {i : Input} (h : outsideStep i s = .next t) :
    t.srcmem = s.srcmem ∧ t.platform = s.platform := by
  obtain ⟨_, r, -, -, rfl⟩ | ⟨_, r, v, -, -, rfl⟩ | ⟨-, rfl⟩ | ⟨a, -, rfl⟩ | ⟨a, v, -, -, rfl⟩ | ⟨a, -, rfl⟩ |
    ⟨-, -, rfl⟩ | ⟨-, -, -, rfl⟩ := outsideStep_cases h
  case inr.inl => exact s.regWrite_keeps_source_platform r v
  all_goals exact ⟨rfl, rfl⟩

end

/-- Settles O38: neither the engine nor the outside has a move that writes SRCMEM or a parameter. -/
theorem stepKeepsSourceAndPlatform : Obligations.StepKeepsSourceAndPlatform := by
  intro s t h
  obtain ⟨-, rfl⟩ | ⟨-, hexec⟩ | ⟨i, rest, -, hout⟩ := step_cases h
  · exact ⟨rfl, rfl⟩
  · simpa using exec_keeps_source_platform hexec
  · simpa using outsideStep_keeps_source_platform hout

end Sys2Proof.Machine
end

section
/-! Command words by their fields (30 R71 to R77): a word is legal exactly when it decodes, and decoding inverts
encoding. -/

namespace Sys2Proof

theorem Mode.code_ofCode : ∀ c : BitVec 2, (Mode.ofCode c).code = c := by decide

theorem Dir.code_ofCode : ∀ c : BitVec 2, (Dir.ofCode c).code = c := by decide

/-! ### A word and its fields -/

theorem ofBool_getLsbD (v : Word) (n : Nat) : BitVec.ofBool (v.getLsbD n) = v.extractLsb' n 1 := by
  apply BitVec.eq_of_getLsbD_eq
  intro i hi
  obtain rfl : i = 0 := by omega
  simp

/-- The fields of 30 R71, most significant first, are the whole word. -/
theorem append_fields (v : Word) :
    v.extractLsb' 14 18 ++ v.extractLsb' 12 2 ++ v.extractLsb' 10 2 ++ v.extractLsb' 8 2 ++ v.extractLsb' 7 1 ++
      v.extractLsb' 6 1 ++ v.extractLsb' 4 2 ++ v.extractLsb' 0 4 = v := by
  have join (hi lo k n : Nat) (h : hi = lo + n) :
      v.extractLsb' hi k ++ v.extractLsb' lo n = v.extractLsb' lo (k + n) :=
    BitVec.extractLsb'_append_extractLsb'_eq_extractLsb' h
  rw [join 14 12 18 2 rfl, join 12 10 20 2 rfl, join 10 8 22 2 rfl, join 8 7 24 1 rfl, join 7 6 25 1 rfl,
    join 6 4 26 2 rfl, join 4 0 28 4 rfl, BitVec.extractLsb'_eq_self]

theorem eq_packWord {v : Word} (h : WellFormed.reservedZero v = true) :
    v = packWord (v.extractLsb' 0 4) (v.extractLsb' 4 2) (v.getLsbD 6) (v.extractLsb' 8 2) (v.extractLsb' 12 2) := by
  simp only [WellFormed.reservedZero, Bool.and_eq_true, beq_iff_eq] at h
  obtain ⟨⟨h7, h10⟩, h14⟩ := h
  unfold packWord
  rw [ofBool_getLsbD, ← h7, ← h10, ← h14, append_fields]

theorem toNat_opField (v : Word) : (v.extractLsb' 0 4).toNat = v.toNat % 16 := by
  rw [BitVec.extractLsb'_toNat, Nat.shiftRight_zero]

/-! ### Legal words are the encodings -/

/-- The command of an assigned opcode with its fields (30 R72 to R75). -/
def commandOf (op : BitVec 4) (m : BitVec 2) (fe : Bool) (fm dir : BitVec 2) : Instr :=
  match op.toNat with
  | 0 => .setPixel (.ofCode m)
  | 1 => .getPixel
  | 2 => .fill (.ofCode m)
  | 3 => .drawRow (.ofCode m)
  | 4 => .drawColumn (.ofCode m)
  | 5 => .drawLine (.ofCode m)
  | 6 => .drawRect (.ofCode m) fe (.ofCode fm)
  | 7 => .drawCircle (.ofCode m) fe (.ofCode fm)
  | 8 => .shift (.ofCode dir)
  | _ => .bitmap

/-- A legal word is the word of the command its fields name: the fields its opcode does not use are 0. -/
theorem encode_commandOf_of_legal {v : Word} (h : WellFormed.legal v = true) :
    encode (commandOf (v.extractLsb' 0 4) (v.extractLsb' 4 2) (v.getLsbD 6) (v.extractLsb' 8 2)
      (v.extractLsb' 12 2)) = v := by
  have clear : ∀ b, BitVec.ofBool b = 0#1 ↔ b = false := by decide
  simp only [WellFormed.legal, WellFormed.modeAllowed, WellFormed.fillAllowed, WellFormed.dirAllowed,
    WellFormed.opAssigned, ← toNat_opField, ← ofBool_getLsbD, Bool.and_eq_true, Bool.or_eq_true, beq_iff_eq, clear,
    decide_eq_true_eq] at h
  obtain ⟨⟨⟨⟨hop, hmode⟩, hfill⟩, hdir⟩, hres⟩ := h
  conv_rhs => rw [eq_packWord hres]
  generalize v.extractLsb' 0 4 = op, v.extractLsb' 4 2 = m, v.getLsbD 6 = fe, v.extractLsb' 8 2 = fm,
    v.extractLsb' 12 2 = dir at hop hmode hfill hdir ⊢
  have assigned : ∀ op : BitVec 4, op.toNat < 10 →
      op = 0 ∨ op = 1 ∨ op = 2 ∨ op = 3 ∨ op = 4 ∨ op = 5 ∨ op = 6 ∨ op = 7 ∨ op = 8 ∨ op = 9 := by decide
  rcases assigned op hop with rfl | rfl | rfl | rfl | rfl | rfl | rfl | rfl | rfl | rfl
  all_goals
    simp_all [WellFormed.usesMode, WellFormed.usesFill, WellFormed.usesDir, commandOf, encode, Mode.code_ofCode,
      Dir.code_ofCode]

/-! ### Decoding inverts encoding -/

theorem decode_encode (i : Instr) : decode (encode i) = .ok i := by
  cases i with
  | getPixel | bitmap => rfl
  | setPixel m | fill m | drawRow m | drawColumn m | drawLine m => cases m <;> rfl
  | drawRect m fe fm | drawCircle m fe fm => cases m <;> cases fe <;> cases fm <;> rfl
  | shift dir => cases dir <;> rfl

/-- Where a row's mask covers a field, the words of the row have the row's bits there. -/
theorem field_of_accepts {r : Row} {v : Word} (h : r.accepts v = true) {lo n : Nat}
    (hm : r.mask.extractLsb' lo n = BitVec.allOnes n) : v.extractLsb' lo n = r.bits.extractLsb' lo n := by
  rw [← beq_iff_eq.1 h, BitVec.extractLsb'_and, hm, BitVec.and_allOnes]

/-- Every row of 30 R76 is a legal word under a mask that covers OP, the reserved bits and the fields the opcode
does not use. -/
theorem rows_cover : ∀ r ∈ rows, WellFormed.legal r.bits = true ∧
    r.mask.extractLsb' 0 4 = BitVec.allOnes 4 ∧ r.mask.extractLsb' 7 1 = BitVec.allOnes 1 ∧
    r.mask.extractLsb' 10 2 = BitVec.allOnes 2 ∧ r.mask.extractLsb' 14 18 = BitVec.allOnes 18 ∧
    (WellFormed.usesMode (r.bits.toNat % 16) = true ∨ r.mask.extractLsb' 4 2 = BitVec.allOnes 2) ∧
    (WellFormed.usesFill (r.bits.toNat % 16) = true ∨
      r.mask.extractLsb' 6 1 = BitVec.allOnes 1 ∧ r.mask.extractLsb' 8 2 = BitVec.allOnes 2) ∧
    (WellFormed.usesDir (r.bits.toNat % 16) = true ∨ r.mask.extractLsb' 12 2 = BitVec.allOnes 2) := by decide

theorem legal_of_accepts {r : Row} (hr : r ∈ rows) {v : Word} (h : r.accepts v = true) : WellFormed.legal v = true := by
  obtain ⟨hl, hop, h7, h10, h14, hmode, hfill, hdir⟩ := rows_cover r hr
  have field {lo n : Nat} := field_of_accepts h (lo := lo) (n := n)
  have hop' : v.toNat % 16 = r.bits.toNat % 16 := by rw [← toNat_opField, field hop, toNat_opField]
  have hmode' : WellFormed.modeAllowed v = WellFormed.modeAllowed r.bits := by
    rcases hmode with hu | hc
    · simp [WellFormed.modeAllowed, hop', hu]
    · simp [WellFormed.modeAllowed, hop', field hc]
  have hfill' : WellFormed.fillAllowed v = WellFormed.fillAllowed r.bits := by
    rcases hfill with hu | ⟨h6, h8⟩
    · simp [WellFormed.fillAllowed, hop', hu]
    · simp only [WellFormed.fillAllowed, hop', field h6, field h8]
  have hdir' : WellFormed.dirAllowed v = WellFormed.dirAllowed r.bits := by
    rcases hdir with hu | hc
    · simp [WellFormed.dirAllowed, hop', hu]
    · simp [WellFormed.dirAllowed, hop', field hc]
  have hres' : WellFormed.reservedZero v = WellFormed.reservedZero r.bits := by
    simp only [WellFormed.reservedZero, field h7, field h10, field h14]
  rw [← hl, WellFormed.legal, WellFormed.legal, hmode', hfill', hdir', hres', WellFormed.opAssigned, hop',
    WellFormed.opAssigned]

theorem legal_of_decode {v : Word} {i : Instr} (h : decode v = .ok i) : WellFormed.legal v = true := by
  unfold decode at h
  split at h
  · next r hr => exact legal_of_accepts (List.mem_of_find?_eq_some hr) (List.find?_some (p := (Row.accepts · v)) hr)
  · cases h

theorem decode_eq_ok_iff (v : Word) (i : Instr) : decode v = .ok i ↔ encode i = v := by
  constructor
  · intro h
    have hv := encode_commandOf_of_legal (legal_of_decode h)
    rw [← hv, decode_encode] at h
    cases h
    exact hv
  · rintro rfl
    exact decode_encode i

theorem exists_decode_of_legal {v : Word} (h : WellFormed.legal v = true) : ∃ i, decode v = .ok i :=
  ⟨_, (decode_eq_ok_iff ..).2 (encode_commandOf_of_legal h)⟩

theorem illegal_iff_decode_error (v : Word) : WellFormed.legal v = false ↔ ∃ e, decode v = .error e := by
  cases h : decode v with
  | ok i => simp [legal_of_decode h]
  | error e =>
    simp only [Except.error.injEq, exists_eq', iff_true, ← Bool.not_eq_true]
    intro hl
    obtain ⟨i, hi⟩ := exists_decode_of_legal hl
    rw [h] at hi
    cases hi

end Sys2Proof
end

section
/-! The state family, registers (spec/10_state.md section 2): the window, what a register write can do, and the
registers that read back. -/

namespace Sys2Proof.Machine

/-! ### The window (10 R25, R34, 20 R56) -/

theorem windowAddr_toNat_mod (p : Platform) (offset : BitVec 6) :
    (windowAddr p offset).toNat % 4 = offset.toNat % 4 := by
  have h : (windowAddr p offset).toNat % 64 = offset.toNat :=
    (BitVec.toNat_setWidth 6 _).symm.trans (congrArg BitVec.toNat BitVec.setWidth_append_eq_right)
  omega

theorem regAccess_windowAddr (p : Platform) {offset : BitVec 6} (h : offset.toNat % 4 = 0) :
    regAccess p (windowAddr p offset) 32 = .ok (regAt offset.toNat) := by
  have hblock : (windowAddr p offset).extractLsb' 6 26 = p.engineBlock := BitVec.extractLsb'_append_eq_left
  have hoff : (windowAddr p offset).extractLsb' 0 6 = offset := BitVec.extractLsb'_append_eq_right
  simp [regAccess, hblock, hoff, windowAddr_toNat_mod, h]

theorem regAccess_offsetOf (p : Platform) (r : Reg) : regAccess p (windowAddr p (offsetOf r)) 32 = .ok r := by
  rw [regAccess_windowAddr p (by cases r <;> decide)]
  cases r <;> rfl

/-- The map of 10 R25 as a table of its aligned offsets. -/
theorem regAt_eq_getD : ∀ offset : BitVec 6, offset.toNat % 4 = 0 →
    regAt offset.toNat =
      [Reg.cmd, .arg0, .arg1, .arg2, .result, .status, .fbBase, .fbWidth, .fbHeight, .fbStride].getD
        (offset.toNat / 4) .reserved := by decide

/-- Settles O44: the access is not refused, and the table of 10 R25 is `regAt`. -/
theorem windowFollowsTheRegisterMap : Obligations.WindowFollowsTheRegisterMap := by
  intro p offset h
  rw [regAccess_windowAddr p h, regAt_eq_getD offset h]

/-! ### Register writes (30 R78, 60 R222) -/

section

variable {s : State}

theorem State.whenIdle_busy (h : s.busy = true) (t : State) : s.whenIdle t = s.setOverrun := if_pos h

theorem State.whenIdle_idle (h : s.busy = false) (t : State) : s.whenIdle t = t := by simp [State.whenIdle, h]

theorem State.submit_of_decode {v : Word} {i : Instr} (h : decode v = .ok i) : s.submit v = s.accept i := by
  rw [State.submit, h]

theorem State.submit_of_illegal {v : Word} (h : WellFormed.legal v = false) : s.submit v = s.setIllegal := by
  obtain ⟨e, he⟩ := (illegal_iff_decode_error v).1 h
  rw [State.submit, he]

section

variable (hb : s.busy = false) (v : Word)
include hb

theorem State.regWrite_cmd_idle : s.regWrite .cmd v = s.submit v := State.whenIdle_idle hb _

theorem State.regWrite_arg0_idle : s.regWrite .arg0 v = { s with arg0 := v } := State.whenIdle_idle hb _

theorem State.regWrite_arg1_idle : s.regWrite .arg1 v = { s with arg1 := v } := State.whenIdle_idle hb _

theorem State.regWrite_arg2_idle : s.regWrite .arg2 v = { s with arg2 := v } := State.whenIdle_idle hb _

theorem State.regWrite_fbBase_idle : s.regWrite .fbBase v = { s with fbBase := v } := State.whenIdle_idle hb _

theorem State.regWrite_fbWidth_idle : s.regWrite .fbWidth v = { s with fbWidth := v.setWidth 15 } :=
  State.whenIdle_idle hb _

theorem State.regWrite_fbHeight_idle : s.regWrite .fbHeight v = { s with fbHeight := v.setWidth 15 } :=
  State.whenIdle_idle hb _

end

/-- The registers whose writes are dropped while BUSY = 1 (60 R222). -/
def guardedRegs : List Reg := [.cmd, .arg0, .arg1, .arg2, .fbBase, .fbWidth, .fbHeight]

theorem State.regWrite_busy (hb : s.busy = true) {r : Reg} (hr : r ∈ guardedRegs) (v : Word) :
    s.regWrite r v = s.setOverrun := by
  cases r with
  | result | status | fbStride | reserved => simp [guardedRegs] at hr
  | cmd | arg0 | arg1 | arg2 | fbBase | fbWidth | fbHeight => exact s.whenIdle_busy hb _

/-- What an idle write of a guarded register can do: report an illegal word, accept a command, or replace an operand or
geometry register. -/
theorem State.regWrite_idle_cases (hb : s.busy = false) {r : Reg} (hr : r ∈ guardedRegs) (v : Word) :
    (r = .cmd ∧ WellFormed.legal v = false ∧ s.regWrite r v = s.setIllegal) ∨
    (r = .cmd ∧ WellFormed.legal v = true ∧ ∃ i, s.regWrite r v = s.accept i) ∨
    ∃ a0 a1 a2 base w h, s.regWrite r v =
      { s with arg0 := a0, arg1 := a1, arg2 := a2, fbBase := base, fbWidth := w, fbHeight := h } := by
  cases r with
  | result | status | fbStride | reserved => simp [guardedRegs] at hr
  | cmd =>
    rw [State.regWrite_cmd_idle hb]
    cases hl : WellFormed.legal v with
    | false => exact .inl ⟨rfl, rfl, State.submit_of_illegal hl⟩
    | true =>
      obtain ⟨i, hi⟩ := exists_decode_of_legal hl
      exact .inr (.inl ⟨rfl, rfl, i, State.submit_of_decode hi⟩)
  | arg0 => exact .inr (.inr ⟨_, _, _, _, _, _, State.regWrite_arg0_idle hb v⟩)
  | arg1 => exact .inr (.inr ⟨_, _, _, _, _, _, State.regWrite_arg1_idle hb v⟩)
  | arg2 => exact .inr (.inr ⟨_, _, _, _, _, _, State.regWrite_arg2_idle hb v⟩)
  | fbBase => exact .inr (.inr ⟨_, _, _, _, _, _, State.regWrite_fbBase_idle hb v⟩)
  | fbWidth => exact .inr (.inr ⟨_, _, _, _, _, _, State.regWrite_fbWidth_idle hb v⟩)
  | fbHeight => exact .inr (.inr ⟨_, _, _, _, _, _, State.regWrite_fbHeight_idle hb v⟩)

/-- What a register write can do: nothing, clear flags of STATUS, set OVERRUN while busy; and, while idle, report an
illegal word, accept a command, or replace an operand or geometry register. -/
theorem State.regWrite_cases (s : State) (r : Reg) (v : Word) :
    s.regWrite r v = s ∨ s.regWrite r v = s.ackStatus v ∨
    (s.busy = true ∧ r ∈ guardedRegs ∧ s.regWrite r v = s.setOverrun) ∨
    (s.busy = false ∧ r = .cmd ∧ WellFormed.legal v = false ∧ s.regWrite r v = s.setIllegal) ∨
    (s.busy = false ∧ r = .cmd ∧ WellFormed.legal v = true ∧ ∃ i, s.regWrite r v = s.accept i) ∨
    (s.busy = false ∧ ∃ a0 a1 a2 base w h, s.regWrite r v =
      { s with arg0 := a0, arg1 := a1, arg2 := a2, fbBase := base, fbWidth := w, fbHeight := h }) := by
  by_cases hr : r ∈ guardedRegs
  · refine .inr (.inr ?_)
    by_cases hb : s.busy = true
    · exact .inl ⟨hb, hr, State.regWrite_busy hb hr v⟩
    · rw [Bool.not_eq_true] at hb
      exact .inr ((State.regWrite_idle_cases hb hr v).imp (⟨hb, ·⟩) (Or.imp (⟨hb, ·⟩) (⟨hb, ·⟩)))
  · cases r with
    | result | fbStride | reserved => exact .inl rfl
    | status => exact .inr (.inl rfl)
    | cmd | arg0 | arg1 | arg2 | fbBase | fbWidth | fbHeight => simp [guardedRegs] at hr

end

/-- Settles O7: BUSY is looked at first, then the word; a word that is legal decodes. -/
theorem cmdWriteAcceptsOrReports : Obligations.CmdWriteAcceptsOrReports := by
  intro s v
  refine ⟨fun hb => s.whenIdle_busy hb _, fun hb hl => ?_, fun hb hl => ?_⟩
  · exact (State.regWrite_cmd_idle hb v).trans (State.submit_of_illegal hl)
  · obtain ⟨i, hi⟩ := exists_decode_of_legal hl
    exact ⟨i, (decode_eq_ok_iff v i).1 hi, (State.regWrite_cmd_idle hb v).trans (State.submit_of_decode hi)⟩

/-! ### Register values -/

theorem State.statusWord_toNat (s : State) :
    s.statusWord.toNat = s.busy.toNat + 2 * s.illegal.toNat + 4 * s.overrun.toNat := by
  unfold State.statusWord
  cases s.busy <;> cases s.illegal <;> cases s.overrun <;> rfl

theorem State.ackStatus_eq (s : State) (v : Word) :
    s.ackStatus v =
      { s with
        illegal := if v.getLsbD 1 then false else s.illegal
        overrun := if v.getLsbD 2 then false else s.overrun } := by
  unfold State.ackStatus
  cases v.getLsbD 1 <;> cases v.getLsbD 2 <;> simp

theorem hostRegRead_offsetOf (s : State) (r : Reg) :
    hostRegRead (windowAddr s.platform (offsetOf r)) 32 s = .next (s.deliver (.reg (s.regValue r))) := by
  rw [hostRegRead, regAccess_offsetOf]

/-- Settles O46: the value of STATUS, its write, and its read, each by the rule for it. -/
theorem statusReadsAndClears : Obligations.StatusReadsAndClears := by
  intro s v
  exact ⟨s.statusWord_toNat, s.ackStatus_eq v, hostRegRead_offsetOf s .status, rfl⟩

theorem State.regValue_fbStride_toNat (s : State) : (s.regValue .fbStride).toNat = (s.fbWidth.toNat + 7) / 8 := by
  have hw := s.fbWidth.isLt
  have h : (s.fbWidth.toNat + 7) / 8 < 2 ^ 32 := by omega
  rw [State.regValue, BitVec.toNat_ofNat, Nat.mod_eq_of_lt h]

theorem State.regValue_fbWidth_toNat (s : State) : (s.regValue .fbWidth).toNat = s.fbWidth.toNat :=
  BitVec.toNat_setWidth_of_le (by decide)

theorem State.regValue_fbHeight_toNat (s : State) : (s.regValue .fbHeight).toNat = s.fbHeight.toNat :=
  BitVec.toNat_setWidth_of_le (by decide)

theorem State.regValue_result_toNat (s : State) : (s.regValue .result).toNat = s.result.toNat :=
  BitVec.toNat_setWidth_of_le (by decide)

/-- Settles O47: an idle write replaces its own register, whose value then reads back. -/
theorem registersReadBack : Obligations.RegistersReadBack := by
  intro s
  refine ⟨fun v hb => ?_, s.regValue_result_toNat, s.regValue_fbStride_toNat, rfl, rfl⟩
  have low : (v.setWidth 15).toNat = v.toNat % 32768 := BitVec.toNat_setWidth ..
  have h0 := State.regWrite_arg0_idle hb v
  have h1 := State.regWrite_arg1_idle hb v
  have h2 := State.regWrite_arg2_idle hb v
  have hbase := State.regWrite_fbBase_idle hb v
  have hw := State.regWrite_fbWidth_idle hb v
  have hh := State.regWrite_fbHeight_idle hb v
  refine ⟨h0, by rw [h0]; rfl, h1, by rw [h1]; rfl, h2, by rw [h2]; rfl, hbase, by rw [hbase]; rfl, hw, ?_, ?_, hh, ?_⟩
  · rw [hw, State.regValue_fbWidth_toNat, low]
  · rw [hw, State.regValue_fbStride_toNat, low]
  · rw [hh, State.regValue_fbHeight_toNat, low]

end Sys2Proof.Machine
end

section
/-! The state family, steps (spec/10_state.md section 3): the invariants of the state, and the events that change a
flag, RESULT or BUSY. -/

namespace Sys2Proof.Machine

variable {s t : State}

/-! ### What a command leaves (10 R27, R28, R37) -/

/-- A completed command changes FBMEM and BUSY, and, if it is GET_PIXEL, RESULT and the count of draws. -/
theorem exec_frame {i : Instr} (h : exec i s = .next t) :
    ∃ fb res d, t = { s with busy := false, fbmem := fb, result := res, draws := d } ∧
      (i ≠ .getPixel → res = s.result ∧ d = s.draws) := by
  obtain ⟨-, ⟨ps, rfl⟩ | ⟨f, rfl⟩ | ⟨rfl, rfl⟩ | ⟨-, rfl⟩⟩ := exec_cases h
  · exact ⟨_, _, _, rfl, fun _ => ⟨rfl, rfl⟩⟩
  · exact ⟨_, _, _, rfl, fun _ => ⟨rfl, rfl⟩⟩
  · exact ⟨_, _, _, rfl, fun hne => absurd rfl hne⟩
  · exact ⟨_, _, _, rfl, fun _ => ⟨rfl, rfl⟩⟩

/-- Settles O33, by the frame of a command. -/
theorem commandsKeepTheRegisters : Obligations.CommandsKeepTheRegisters := by
  intro i s t h
  obtain ⟨fb, res, d, rfl, hres⟩ := exec_frame h
  exact ⟨rfl, hres⟩

/-! ### Canonical memories (10 R38) -/

theorem State.memoriesWf_iff (s : State) : s.memoriesWf = true ↔ Mem.wf s.fbmem = true ∧ Mem.wf s.srcmem = true := by
  simp [State.memoriesWf]

theorem exec_fbmem_wf {i : Instr} (h : exec i s = .next t) (hm : Mem.wf s.fbmem = true) : Mem.wf t.fbmem = true := by
  obtain ⟨hv, ⟨ps, rfl⟩ | ⟨f, rfl⟩ | ⟨-, rfl⟩ | ⟨-, rfl⟩⟩ := exec_cases h
  · exact (plotAll_spec hm (State.fits_of_valid hv) ps).1
  · exact (State.rewritten_read hm (State.fits_of_valid hv) f).1
  · exact hm
  · exact hm

theorem State.regWrite_fbmem (s : State) (r : Reg) (v : Word) : (s.regWrite r v).fbmem = s.fbmem := by
  obtain h | h | ⟨-, -, h⟩ | ⟨-, -, -, h⟩ | ⟨-, -, -, i, h⟩ | ⟨-, _, _, _, _, _, _, h⟩ :=
    s.regWrite_cases r v <;> rw [h] <;> rfl

theorem outsideStep_fbmem_wf {i : Input} (h : outsideStep i s = .next t) (hm : Mem.wf s.fbmem = true) :
    Mem.wf t.fbmem = true := by
  obtain ⟨_, r, -, -, rfl⟩ | ⟨_, r, v, -, -, rfl⟩ | ⟨-, rfl⟩ | ⟨a, -, rfl⟩ | ⟨a, v, -, -, rfl⟩ | ⟨a, -, rfl⟩ |
    ⟨-, -, rfl⟩ | ⟨-, -, hv, rfl⟩ := outsideStep_cases h
  case inr.inl => rwa [State.regWrite_fbmem]
  case inr.inr.inr.inr.inl => exact Mem.wf_write hm a.isLt _
  case inr.inr.inr.inr.inr.inr.inr => exact (Mem.writeRange_spec hm _ _ (State.fits_of_valid hv)).1
  all_goals exact hm

/-- Settles O36: SRCMEM is never written, and each writer of FBMEM keeps the canonical form. -/
theorem stepKeepsMemoriesCanonical : Obligations.StepKeepsMemoriesCanonical := by
  intro s t hwf h
  obtain ⟨hm, hsrc⟩ := s.memoriesWf_iff.1 hwf
  refine t.memoriesWf_iff.2 ⟨?_, by rwa [(stepKeepsSourceAndPlatform s t h).1]⟩
  obtain ⟨-, rfl⟩ | ⟨-, hexec⟩ | ⟨i, rest, -, hout⟩ := step_cases h
  · exact hm
  · exact exec_fbmem_wf hexec hm
  · exact outsideStep_fbmem_wf hout hm

/-! ### What a step can do to the registers -/

/-- A move of the outside writes a register, resets the block, or leaves every register, the flags and the latch. -/
theorem outsideStep_register_cases {i : Input} (h : outsideStep i s = .next t) :
    (∃ addr r v, i = .regWrite addr 32 v ∧ regAccess s.platform addr 32 = .ok r ∧ t = s.regWrite r v) ∨
    (i = .reset ∧ ∃ u : State, t = u.resetRegs) ∨
    ∃ fb ins rds scn d, t = { s with fbmem := fb, inputs := ins, reads := rds, scanned := scn, draws := d } := by
  obtain ⟨_, r, -, -, rfl⟩ | hw | ⟨-, rfl⟩ | ⟨a, -, rfl⟩ | ⟨a, v, -, -, rfl⟩ | ⟨a, -, rfl⟩ | ⟨hi, -, rfl⟩ |
    ⟨hi, -, -, rfl⟩ := outsideStep_cases h
  case inr.inl => exact .inl hw
  case inr.inr.inr.inr.inr.inr.inl => exact .inr (.inl ⟨hi, _, rfl⟩)
  case inr.inr.inr.inr.inr.inr.inr => exact .inr (.inl ⟨hi, _, rfl⟩)
  all_goals exact .inr (.inr ⟨_, _, _, _, _, rfl⟩)

/-- A step leaves every register, the flags and the latch, or is the end of a command, a register write, or a reset. -/
theorem step_register_cases (h : step s = .next t) :
    (∃ fb ins trn rds scn d,
      t = { s with fbmem := fb, inputs := ins, turns := trn, reads := rds, scanned := scn, draws := d }) ∨
    (s.nextMove = .engine ∧ ∃ fb res trn d,
      t = { s with busy := false, fbmem := fb, result := res, turns := trn, draws := d } ∧
      (s.act.cmd ≠ .getPixel → res = s.result)) ∨
    (∃ addr r v rest, s.nextMove = .outside (.regWrite addr 32 v) rest ∧ regAccess s.platform addr 32 = .ok r ∧
      t = (s.outsideView rest).regWrite r v) ∨
    ∃ rest, s.nextMove = .outside .reset rest ∧ ∃ u : State, t = u.resetRegs := by
  obtain ⟨-, rfl⟩ | ⟨hmove, hexec⟩ | ⟨i, rest, hmove, hout⟩ := step_cases h
  · exact .inl ⟨_, _, _, _, _, _, rfl⟩
  · obtain ⟨fb, res, d, rfl, hres⟩ := exec_frame hexec
    exact .inr (.inl ⟨hmove, _, _, _, _, rfl, fun hne => (hres hne).1⟩)
  · obtain ⟨addr, r, v, rfl, hr, rfl⟩ | ⟨rfl, u, rfl⟩ | ⟨fb, ins, rds, scn, d, rfl⟩ := outsideStep_register_cases hout
    · exact .inr (.inr (.inl ⟨addr, r, v, rest, hmove, hr, rfl⟩))
    · exact .inr (.inr (.inr ⟨rest, hmove, u, rfl⟩))
    · exact .inl ⟨_, _, _, _, _, _, rfl⟩

/-! ### The latch follows the registers (10 R35) -/

theorem State.latchFollows_of_idle (h : s.busy = false) : s.latchFollows := fun hb => by simp [h] at hb

/-- Acceptance copies the registers, and while BUSY = 1 no register write reaches them. -/
theorem State.regWrite_latchFollows (hs : s.latchFollows) (r : Reg) (v : Word) : (s.regWrite r v).latchFollows := by
  obtain h | h | ⟨-, -, h⟩ | ⟨-, -, -, h⟩ | ⟨-, -, -, i, h⟩ | ⟨hb, _, _, _, _, _, _, h⟩ :=
    s.regWrite_cases r v <;> rw [h]
  · exact hs
  · exact hs
  · exact hs
  · exact hs
  · exact fun _ => ⟨rfl, rfl, rfl, rfl, rfl, rfl⟩
  · exact State.latchFollows_of_idle hb

/-- Settles O37: only a register write could part the latch from the registers, and none does. -/
theorem stepKeepsLatchEqualToRegisters : Obligations.StepKeepsLatchEqualToRegisters := by
  intro s t hs h
  obtain ⟨_, _, _, _, _, _, rfl⟩ | ⟨-, _, _, _, _, rfl, -⟩ | ⟨_, r, v, rest, -, -, rfl⟩ | ⟨_, -, u, rfl⟩ :=
    step_register_cases h
  · exact hs
  · exact State.latchFollows_of_idle rfl
  · exact State.regWrite_latchFollows (s := s.outsideView rest) hs r v
  · exact State.latchFollows_of_idle rfl

/-! ### Which register writes raise a flag or BUSY -/

theorem State.regWrite_raises_illegal {r : Reg} {v : Word} (h0 : s.illegal = false)
    (h1 : (s.regWrite r v).illegal = true) : r = .cmd ∧ s.busy = false ∧ WellFormed.legal v = false := by
  obtain h | h | ⟨-, -, h⟩ | ⟨hb, hr, hl, -⟩ | ⟨-, -, -, i, h⟩ | ⟨-, _, _, _, _, _, _, h⟩ := s.regWrite_cases r v
  case inr.inr.inr.inl => exact ⟨hr, hb, hl⟩
  all_goals simp [h, h0] at h1

theorem State.regWrite_raises_overrun {r : Reg} {v : Word} (h0 : s.overrun = false)
    (h1 : (s.regWrite r v).overrun = true) : s.busy = true ∧ r ∈ guardedRegs := by
  obtain h | h | ⟨hb, hr, -⟩ | ⟨-, -, -, h⟩ | ⟨-, -, -, i, h⟩ | ⟨-, _, _, _, _, _, _, h⟩ := s.regWrite_cases r v
  case inr.inr.inl => exact ⟨hb, hr⟩
  all_goals simp [h, h0] at h1

theorem State.regWrite_raises_busy {r : Reg} {v : Word} (h0 : s.busy = false)
    (h1 : (s.regWrite r v).busy = true) : r = .cmd ∧ WellFormed.legal v = true := by
  obtain h | h | ⟨-, -, h⟩ | ⟨-, -, -, h⟩ | ⟨-, hr, hl, -⟩ | ⟨-, _, _, _, _, _, _, h⟩ := s.regWrite_cases r v
  case inr.inr.inr.inr.inl => exact ⟨hr, hl⟩
  all_goals simp [h, h0] at h1

theorem State.regWrite_keeps_busy (h0 : s.busy = true) (r : Reg) (v : Word) : (s.regWrite r v).busy = true := by
  obtain h | h | ⟨-, -, h⟩ | ⟨-, -, -, h⟩ | ⟨-, -, -, i, h⟩ | ⟨-, _, _, _, _, _, _, h⟩ :=
    s.regWrite_cases r v <;> simp [h, h0]

theorem State.regWrite_result (s : State) (r : Reg) (v : Word) : (s.regWrite r v).result = s.result := by
  obtain h | h | ⟨-, -, h⟩ | ⟨-, -, -, h⟩ | ⟨-, -, -, i, h⟩ | ⟨-, _, _, _, _, _, _, h⟩ :=
    s.regWrite_cases r v <;> rw [h] <;> rfl

/-- Settles O40: of the moves of a step only a register write can set a flag, and the rules above say which. -/
theorem flagsAreSetByTheirOneCause : Obligations.FlagsAreSetByTheirOneCause := by
  intro s t h
  obtain ⟨_, _, _, _, _, _, rfl⟩ | ⟨-, _, _, _, _, rfl, -⟩ | ⟨addr, r, v, rest, hmove, hr, rfl⟩ | ⟨_, -, u, rfl⟩ :=
    step_register_cases h
  · exact ⟨by simp +contextual, by simp +contextual⟩
  · exact ⟨by simp +contextual, by simp +contextual⟩
  · refine ⟨fun h0 h1 => ?_, fun h0 h1 => ?_⟩
    · obtain ⟨rfl, hb, hl⟩ := State.regWrite_raises_illegal (s := s.outsideView rest) h0 h1
      exact ⟨addr, v, rest, hmove, hr, hb, hl⟩
    · obtain ⟨hb, hg⟩ := State.regWrite_raises_overrun (s := s.outsideView rest) h0 h1
      exact ⟨addr, v, rest, r, hmove, hr, hb, hg⟩
  · exact ⟨by simp, by simp⟩

/-- Settles O42: a register write keeps RESULT and a BUSY of 1, and raises BUSY only by acceptance. -/
theorem resultAndBusyChangeOnlyByTheirEvents : Obligations.ResultAndBusyChangeOnlyByTheirEvents := by
  intro s t h
  obtain ⟨_, _, _, _, _, _, rfl⟩ | ⟨hmove, _, _, _, _, rfl, hres⟩ | ⟨addr, r, v, rest, hmove, hr, rfl⟩ |
    ⟨rest, hmove, u, rfl⟩ := step_register_cases h
  · exact ⟨fun hne => absurd rfl hne, by simp +contextual, by simp +contextual⟩
  · exact ⟨fun hne => .inl ⟨hmove, by_contra fun hcmd => hne (hres hcmd)⟩, by simp, fun _ _ => .inl hmove⟩
  · refine ⟨fun hne => absurd (State.regWrite_result ..) hne, fun h0 h1 => ?_, fun h0 h1 => ?_⟩
    · obtain ⟨rfl, hl⟩ := State.regWrite_raises_busy (s := s.outsideView rest) h0 h1
      exact ⟨addr, v, rest, hmove, hr, hl⟩
    · rw [State.regWrite_keeps_busy (s := s.outsideView rest) h0] at h1
      cases h1
  · exact ⟨fun _ => .inr ⟨rest, hmove⟩, by simp, fun _ _ => .inr ⟨rest, hmove⟩⟩

/-! ### An accepted command is the next engine step (30 R78) -/

theorem State.nextMove_idle_cons {i : Input} {rest : List Input} (hb : s.busy = false) (hi : s.inputs = i :: rest) :
    s.nextMove = .outside i rest := by
  simp [State.nextMove, hb, hi]

theorem State.nextMove_engine (hb : s.busy = true) (h : s.inputs = [] ∨ s.turns.head? ≠ some .outside) :
    s.nextMove = .engine := by
  unfold State.nextMove
  rw [if_pos hb]
  split
  · next hi ht => simp [hi, ht] at h
  · rfl

theorem step_of_engine (h : s.nextMove = .engine) : step s = exec s.act.cmd s.spendTurn := by rw [step, h]

theorem step_of_outside {i : Input} {rest : List Input} (h : s.nextMove = .outside i rest) :
    step s = outsideStep i (s.outsideView rest) := by rw [step, h]

theorem State.spendTurn_busy_eq (hb : s.busy = true) : s.spendTurn = { s with turns := s.turns.tail } := by
  rw [State.spendTurn, if_pos hb]

theorem State.outsideView_idle (hb : s.busy = false) (rest : List Input) :
    s.outsideView rest = { s with inputs := rest } := by
  simp [State.outsideView, State.spendTurn, hb]

/-- The host's write of a register is a step, and what the register write does to the state. -/
theorem step_writeReg_idle {r : Reg} {v : Word} {rest : List Input} (hb : s.busy = false)
    (hi : s.inputs = writeReg s.platform r v :: rest) : step s = .next ({ s with inputs := rest }.regWrite r v) := by
  rw [step_of_outside (State.nextMove_idle_cons hb hi), State.outsideView_idle hb, writeReg, outsideStep, hostRegWrite,
    regAccess_offsetOf]

/-- Settles O8: the write accepts, and the engine, which the schedule then lets move, runs what was accepted. -/
theorem acceptedCommandRunsNext : Obligations.AcceptedCommandRunsNext := by
  intro s v i rest hb hd hi hturn
  refine ⟨{ s.accept i with inputs := rest }, ?_, rfl, ?_⟩
  · rw [step_writeReg_idle hb hi, State.regWrite_cmd_idle (s := { s with inputs := rest }) hb,
      State.submit_of_decode hd]
    rfl
  · have hmove : State.nextMove { s.accept i with inputs := rest } = .engine := State.nextMove_engine rfl hturn
    rw [step_of_engine hmove, State.spendTurn_busy_eq rfl]
    rfl

end Sys2Proof.Machine
end

section
/-! The state family, the region (spec/10_state.md section 1, 20 R51): a pixel as a bit of a byte, the padding bits, and
what a command reads. -/

namespace Sys2Proof.Machine

/-- Settles O10: shifting right by `n` divides by `2 ^ n`, and one bit is kept. -/
theorem pixelIsItsAddressedBit : Obligations.PixelIsItsAddressedBit := by
  intro g m x y
  rw [Geom.pixel, BitVec.toNat_setWidth, BitVec.toNat_ushiftRight, Nat.shiftRight_eq_div_pow]
  rfl

/-! ### The commands that draw -/

section

variable {s t : State}

theorem State.draw_next {ps : List Plot} (h : s.draw ps = .next t) : s.regionValid = true ∧ t = s.drawn ps := by
  obtain ⟨hv, hk⟩ := State.engineStep_next h
  cases hk
  exact ⟨hv, rfl⟩

theorem execBitmap_of_readable {b : BitmapHeader} {data : List Byte}
    (h : readBitmap s.srcRead s.act = some (b, data)) :
    execBitmap s = s.draw (blit s.act.coord0 s.act.coord1 b data) := by
  simp only [execBitmap, State.draw, State.engineStep, h]

theorem execBitmap_of_unreadable (h : readBitmap s.srcRead s.act = none) :
    execBitmap s = s.engineStep fun _ => .fault .srcUnreadable := by
  simp only [execBitmap, State.engineStep, h]

theorem exec_getPixel_next (h : exec .getPixel s = .next t) :
    t = (s.readPixel s.act.coord0 s.act.coord1).finish := by
  simp only [exec, execGetPixel] at h
  obtain ⟨-, hk⟩ := State.engineStep_next h
  cases hk
  rfl

/-! ### Padding bits (10 R23) -/

theorem State.draw_padding (hm : Mem.wf s.fbmem = true) {ps : List Plot} (h : s.draw ps = .next t) {x y : Nat}
    (hx : s.act.geom.w ≤ x) (hx' : x < 8 * s.act.geom.stride) (hy : y < s.act.geom.h) :
    t.pixelAt x y = s.pixelAt x y := by
  obtain ⟨hv, rfl⟩ := State.draw_next h
  obtain ⟨-, -, hpad, -⟩ := State.drawn_redrawn hm (State.fits_of_valid hv) ps
  exact hpad x y hx hx' hy

end

/-- Settles O34: the other commands make plots, which keep the padding columns, or only read. -/
theorem paddingKeptByPixelCommands : Obligations.PaddingKeptByPixelCommands := by
  intro i s t hwf h hfill hshift x y hx hx' hy
  obtain ⟨hm, -⟩ := s.memoriesWf_iff.1 hwf
  cases i with
  | fill m => exact absurd rfl (hfill m)
  | shift dir => exact absurd rfl (hshift dir)
  | getPixel => rw [exec_getPixel_next h]; rfl
  | bitmap =>
    rw [exec] at h
    cases hb : readBitmap s.srcRead s.act with
    | none =>
      rw [execBitmap_of_unreadable hb] at h
      cases (State.engineStep_next h).2
    | some q =>
      rw [execBitmap_of_readable hb] at h
      exact State.draw_padding hm h hx hx' hy
  | setPixel m | drawRow m | drawColumn m | drawLine m => exact State.draw_padding hm h hx hx' hy
  | drawRect m fe fm | drawCircle m fe fm => exact State.draw_padding hm h hx hx' hy

/-! ### Two memories with the same bytes in the region -/

/-- The bytes `fb[0]` to `fb[S * H - 1]` are the same in both memories. -/
def Geom.SameBytes (g : Geom) (m m' : Mem) : Prop := ∀ i, i < g.bytes → g.byteAt m i = g.byteAt m' i

theorem Geom.sameBytes_iff (g : Geom) (m m' : Mem) :
    g.SameBytes m m' ↔ ∀ a, g.inRegion a = true → Mem.read m a = Mem.read m' a := by
  constructor
  · intro h a ha
    rw [Geom.inRegion_iff] at ha
    have hi := h (a - g.base) (by omega)
    rwa [Geom.byteAt, Geom.byteAt, Nat.add_sub_cancel' ha.1] at hi
  · intro h i hi
    exact h _ ((g.inRegion_iff _).2 ⟨by omega, by omega⟩)

section

variable {g : Geom} {m m' : Mem}

theorem Geom.row_byte_lt {r k : Nat} (hr : r < g.h) (hk : k < g.stride) : r * g.stride + k < g.bytes := by
  have h := g.index_lt (x := 8 * k) (y := r) (by omega) hr
  rwa [Geom.index, Nat.mul_div_cancel_left k (by omega)] at h

theorem Geom.SameBytes.pixel (h : g.SameBytes m m') {x y : Nat} (hx : x < 8 * g.stride) (hy : y < g.h) :
    g.pixel m x y = g.pixel m' x y := Geom.pixel_congr (h _ (g.index_lt hx hy))

theorem Geom.byteAt_write (hm : Mem.wf m = true) {j : Nat} (hj : g.base + j < 2 ^ 32) (v : Byte) (i : Nat) :
    g.byteAt (Mem.write m (g.base + j) v) i = if i = j then v else g.byteAt m i := by
  simp only [Geom.byteAt, Mem.read_write hm hj, Nat.add_left_cancel_iff]

theorem Geom.SameBytes.plotOne (h : g.SameBytes m m') (hm : Mem.wf m = true) (hm' : Mem.wf m' = true) (hg : g.Fits)
    (p : Plot) : g.SameBytes (plotOne g m p) (plotOne g m' p) := by
  unfold Machine.plotOne
  split
  · next hp =>
    simp only [Bool.and_eq_true, Geom.contains_iff] at hp
    have hw := g.w_le
    have hlt := g.index_lt (x := p.x.toNat) (y := p.y.toNat) (by omega) (by omega)
    have ha : g.base + g.index p.x.toNat p.y.toNat < 2 ^ 32 := by unfold Geom.Fits at hg; omega
    intro i hi
    rw [Geom.byteAt_write hm ha, Geom.byteAt_write hm' ha, h _ hlt, h i hi]
  · exact h

theorem Geom.SameBytes.plotAll (h : g.SameBytes m m') (hm : Mem.wf m = true) (hm' : Mem.wf m' = true) (hg : g.Fits)
    (ps : List Plot) : g.SameBytes (plotAll g ps m) (plotAll g ps m') := by
  induction ps generalizing m m' with
  | nil => exact h
  | cons p ps ih => exact ih (h.plotOne hm hm' hg p) (plotOne_wf hm hg p) (plotOne_wf hm' hg p)

theorem packByte_congr {f f' : Nat → BitVec 1} (h : ∀ j, j < 8 → f j = f' j) : packByte f = packByte f' := by
  unfold packByte
  rw [h 0 (by omega), h 1 (by omega), h 2 (by omega), h 3 (by omega), h 4 (by omega), h 5 (by omega), h 6 (by omega),
    h 7 (by omega)]

/-- A byte after SHIFT is made of bytes, or of bits, of the region. -/
theorem Geom.SameBytes.shiftByte (h : g.SameBytes m m') (dir : Dir) (d : Nat) {r k : Nat} (hr : r < g.h)
    (hk : k < g.stride) : shiftByte dir g m d r k = shiftByte dir g m' d r k := by
  cases dir with
  | up =>
    simp only [Machine.shiftByte, shiftUpByte]
    split
    · next hrd => exact h _ (Geom.row_byte_lt hrd hk)
    · rfl
  | down =>
    simp only [Machine.shiftByte, shiftDownByte]
    split
    · exact h _ (Geom.row_byte_lt (by omega) hk)
    · rfl
  | left =>
    simp only [Machine.shiftByte]
    refine packByte_congr fun j hj => ?_
    unfold shiftLeftBit
    split
    · next hc => exact h.pixel hc hr
    · rfl
  | right =>
    simp only [Machine.shiftByte]
    refine packByte_congr fun j hj => ?_
    unfold shiftRightBit
    split
    · exact h.pixel (by omega) hr
    · rfl

end

/-! ### Two states a command cannot tell apart (10 R35, 20 R51) -/

/-- The states agree on what a command may read, and their FBMEMs are canonical. -/
structure SameView (s s' : State) : Prop where
  act : s.act = s'.act
  platform : s.platform = s'.platform
  srcmem : s.srcmem = s'.srcmem
  draws : s.draws = s'.draws
  bytes : s.act.geom.SameBytes s.fbmem s'.fbmem
  wf : Mem.wf s.fbmem = true
  wf' : Mem.wf s'.fbmem = true

/-- Both outcomes are next states with the same bytes in the region, or both are the same stop. -/
def SameOutcome (g : Geom) : Host.Outcome State Fault Refusal → Host.Outcome State Fault Refusal → Prop
  | .next t, .next t' => g.SameBytes t.fbmem t'.fbmem
  | .fault f, .fault f' => f = f'
  | .refused r, .refused r' => r = r'
  | _, _ => False

section

variable {s s' : State}

theorem SameOutcome.next {g : Geom} {o o' : Host.Outcome State Fault Refusal} (h : SameOutcome g o o') {t : State}
    (ho : o = .next t) : ∃ t', o' = .next t' ∧ g.SameBytes t.fbmem t'.fbmem := by
  subst ho
  cases o' with
  | next t' => exact ⟨t', rfl, h⟩
  | fault f | refused r => exact h.elim

theorem SameOutcome.fault {g : Geom} {o o' : Host.Outcome State Fault Refusal} (h : SameOutcome g o o') {f : Fault}
    (ho : o = .fault f) : o' = .fault f := by
  subst ho
  cases o' with
  | fault f' => exact congrArg _ (Eq.symm h)
  | next t | refused r => exact h.elim

theorem SameView.regionValid (h : SameView s s') : s.regionValid = s'.regionValid := by
  rw [State.regionValid, State.regionValid, h.act, h.platform]

theorem SameView.srcRead (h : SameView s s') : s.srcRead = s'.srcRead := by
  funext a
  rw [State.srcRead, State.srcRead, h.platform, h.srcmem]

theorem SameView.drawsBit (h : SameView s s') (x y : Int) : s.drawsBit x y = s'.drawsBit x y := by
  rw [State.drawsBit, State.drawsBit, h.act, h.platform]

/-- The value read is 0, the next free bit, or a pixel. -/
theorem SameView.pixelResult (h : SameView s s') (x y : Int) : s.pixelResult x y = s'.pixelResult x y := by
  unfold State.pixelResult
  rw [← h.drawsBit, ← h.draws, ← h.act]
  split
  · rfl
  · next hmiss =>
    split
    · rfl
    · split
      · rfl
      · have hw := s.act.geom.w_le
        rw [Geom.missesAbove_iff] at hmiss
        exact h.bytes.pixel (by omega) (by omega)

theorem SameView.engineStep (h : SameView s s') {k k' : State → Host.Outcome State Fault Refusal}
    (hk : s.act.geom.Fits → SameOutcome s.act.geom (k s) (k' s')) :
    SameOutcome s.act.geom (s.engineStep k) (s'.engineStep k') := by
  cases hv : s.regionValid with
  | true =>
    rw [s.engineStep_valid hv, s'.engineStep_valid (h.regionValid ▸ hv)]
    exact hk (State.fits_of_valid hv)
  | false =>
    rw [s.engineStep_invalid hv, s'.engineStep_invalid (h.regionValid ▸ hv)]
    exact rfl

theorem SameView.draw (h : SameView s s') {ps ps' : List Plot} (hps : ps = ps') :
    SameOutcome s.act.geom (s.draw ps) (s'.draw ps') := by
  subst hps
  refine h.engineStep fun hg => ?_
  have hb := h.bytes.plotAll h.wf h.wf' hg ps
  rwa [← s.drawn_fbmem, h.act, ← s'.drawn_fbmem, ← h.act] at hb

theorem SameView.rewrite (h : SameView s s') {f f' : Nat → Byte} (hf : ∀ i, i < s.act.geom.bytes → f i = f' i) :
    SameOutcome s.act.geom (s.rewrite f) (s'.rewrite f') := by
  refine h.engineStep fun hg i hi => ?_
  obtain ⟨-, hr, -⟩ := State.rewritten_read h.wf hg f
  obtain ⟨-, hr', -⟩ := State.rewritten_read h.wf' (h.act ▸ hg) f'
  rw [hr i hi, hf i hi, h.act, hr' i (h.act ▸ hi)]

/-- A command answers alike in two states it cannot tell apart. -/
theorem SameView.exec (h : SameView s s') (i : Instr) : SameOutcome s.act.geom (exec i s) (exec i s') := by
  cases i with
  | setPixel m | drawRow m | drawColumn m | drawLine m =>
    refine h.draw ?_
    rw [h.act]
  | drawRect m fe fm | drawCircle m fe fm =>
    refine h.draw ?_
    rw [h.act]
  | getPixel =>
    rw [Machine.exec, Machine.exec, execGetPixel, execGetPixel]
    exact h.engineStep fun _ => h.bytes
  | fill m =>
    cases m with
    | noOp =>
      rw [Machine.exec, Machine.exec, execFill, execFill]
      exact h.engineStep fun _ => h.bytes
    | black | white | invert =>
      refine h.rewrite fun i hi => ?_
      rw [h.bytes i hi, h.act]
  | shift dir =>
    refine h.rewrite fun i hi => ?_
    have hk : 0 < s.act.geom.stride := Nat.pos_of_mul_pos_right (Nat.zero_lt_of_lt hi)
    rw [h.bytes.shiftByte dir _ (Nat.div_lt_of_lt_mul hi) (Nat.mod_lt i hk), h.act]
  | bitmap =>
    have hread : readBitmap s.srcRead s.act = readBitmap s'.srcRead s'.act := by rw [h.srcRead, h.act]
    cases hb : readBitmap s.srcRead s.act with
    | none =>
      rw [Machine.exec, Machine.exec, execBitmap_of_unreadable hb, execBitmap_of_unreadable (hread ▸ hb)]
      exact h.engineStep fun _ => rfl
    | some q =>
      rw [Machine.exec, Machine.exec, execBitmap_of_readable hb, execBitmap_of_readable (hread ▸ hb)]
      exact h.draw (by rw [h.act])

end

/-- Settles O35: the two states are alike to the command, and RESULT is `pixelResult`. -/
theorem commandsReadOnlyTheirRegion : Obligations.CommandsReadOnlyTheirRegion := by
  intro i s s' hwf hwf' hact hplatform hsrc hdraws hregion
  obtain ⟨hm, -⟩ := s.memoriesWf_iff.1 hwf
  obtain ⟨hm', -⟩ := s'.memoriesWf_iff.1 hwf'
  have hview : SameView s s' := ⟨hact, hplatform, hsrc, hdraws, (Geom.sameBytes_iff ..).2 hregion, hm, hm'⟩
  refine ⟨fun t ht => ?_, fun f hf => (hview.exec i).fault hf⟩
  obtain ⟨t', ht', hbytes⟩ := (hview.exec i).next ht
  refine ⟨t', ht', ?_, (Geom.sameBytes_iff ..).1 hbytes⟩
  rintro rfl
  rw [exec_getPixel_next ht, exec_getPixel_next ht']
  simp only [State.finish_result, State.readPixel_result, ← hact]
  exact hview.pixelResult ..

end Sys2Proof.Machine
end

section
/-! The memory family, the engine (spec/20_memory.md): the region check, the source of BITMAP, and the bytes a command
changes. -/

namespace Sys2Proof.Machine

/-! ### The header of a bitmap (45 R201) -/

section

variable {rd : Nat → Option Byte} {source a operand offset width height : Nat}

theorem headerField_of_ne_zero (h : operand ≠ 0) : headerField rd source a operand = some (operand, a) := if_neg h

theorem headerField_zero : headerField rd source a 0 = (rd (source + a)).map fun b => (b.toNat, a + 1) := if_pos rfl

theorem readHeader_of_fields {w h d : Nat} (hw : headerField rd source offset width = some (w, a))
    (hh : headerField rd source a height = some (h, d)) :
    readHeader rd source offset width height = some ⟨w, h, d⟩ := by
  simp only [readHeader, hw, hh]

theorem readHeader_of_no_width (hw : headerField rd source offset width = none) :
    readHeader rd source offset width height = none := by
  simp only [readHeader, hw]

theorem readHeader_of_no_height {w : Nat} (hw : headerField rd source offset width = some (w, a))
    (hh : headerField rd source a height = none) : readHeader rd source offset width height = none := by
  simp only [readHeader, hw, hh]

end

/-- Settles O28: a non-zero operand stands, a zero one is the next byte, and the height starts where the width left off. -/
theorem headerTakesZeroOperands : Obligations.HeaderTakesZeroOperands := by
  intro rd source offset width height
  refine ⟨fun hw hh => ?_, ?_, ?_, ?_, ?_, ?_⟩
  · exact readHeader_of_fields (headerField_of_ne_zero hw) (headerField_of_ne_zero hh)
  · rintro rfl hh w hrd
    exact readHeader_of_fields (by rw [headerField_zero, hrd]; rfl) (headerField_of_ne_zero hh)
  · rintro hw rfl h hrd
    exact readHeader_of_fields (headerField_of_ne_zero hw) (by rw [headerField_zero, hrd]; rfl)
  · rintro rfl rfl w h hrd hrd'
    exact readHeader_of_fields (a := offset + 1) (by rw [headerField_zero, hrd]; rfl)
      (by rw [headerField_zero, ← Nat.add_assoc, hrd']; rfl)
  · intro hzero hrd
    have hnone : headerField rd source offset 0 = none := by rw [headerField_zero, hrd]; rfl
    by_cases hw : width = 0
    · exact readHeader_of_no_width (hw ▸ hnone)
    · obtain rfl := hzero.resolve_left hw
      exact readHeader_of_no_height (headerField_of_ne_zero hw) hnone
  · rintro rfl rfl hrd'
    cases hrd : rd (source + offset) with
    | none => exact readHeader_of_no_width (by rw [headerField_zero, hrd]; rfl)
    | some w =>
      exact readHeader_of_no_height (a := offset + 1) (by rw [headerField_zero, hrd]; rfl)
        (by rw [headerField_zero, ← Nat.add_assoc, hrd']; rfl)

/-! ### The source of a bitmap (20 R53, 45 R204) -/

theorem readBytes_isSome_iff (rd : Nat → Option Byte) (a n : Nat) :
    (readBytes rd a n).isSome = true ↔ ∀ k, k < n → (rd (a + k)).isSome = true := by
  induction n generalizing a with
  | zero => simp [readBytes]
  | succ n ih =>
    have htail : (readBytes rd (a + 1) n).isSome = true ↔ ∀ k, k < n → (rd (a + (k + 1))).isSome = true := by
      rw [ih]
      simp only [Nat.add_assoc, Nat.add_comm 1]
    rw [Nat.forall_lt_succ_left', ← htail, Nat.add_zero, readBytes]
    cases rd a with
    | none => simp
    | some b => cases readBytes rd (a + 1) n <;> simp

section

variable {s t : State}

theorem State.readBitmap_isSome_iff (s : State) : (readBitmap s.srcRead s.act).isSome = true ↔ s.SourceReadable := by
  unfold readBitmap State.SourceReadable
  cases hh : readHeader s.srcRead s.act.source s.act.size2 s.act.bitmapWidth s.act.bitmapHeight with
  | none => simp
  | some b =>
    simp only [Option.some.injEq, exists_eq_left', ← readBytes_isSome_iff]
    cases readBytes s.srcRead (s.act.source + b.data) (b.height * b.rowBytes) <;> simp

theorem State.srcRead_past_top (s : State) {a : Nat} (h : 2 ^ 32 ≤ a) : s.srcRead a = none :=
  if_neg fun hr => absurd hr.1 (by omega)

/-! ### How a command can answer (20 R52, 60 R225) -/

/-- Every command is an engine step, and what it runs after the region check answers a next state, but for a BITMAP whose
source is not readable. -/
theorem exec_eq_engineStep (i : Instr) (s : State) :
    ∃ k, exec i s = s.engineStep k ∧
      ((∃ t, k s = .next t) ∨ (i = .bitmap ∧ ¬ s.SourceReadable ∧ k s = .fault .srcUnreadable)) := by
  cases i with
  | setPixel m | drawRow m | drawColumn m | drawLine m => exact ⟨fun s => .next (s.drawn _), rfl, .inl ⟨_, rfl⟩⟩
  | drawRect m fe fm | drawCircle m fe fm => exact ⟨fun s => .next (s.drawn _), rfl, .inl ⟨_, rfl⟩⟩
  | getPixel => exact ⟨fun s => .next (s.readPixel s.act.coord0 s.act.coord1).finish, rfl, .inl ⟨_, rfl⟩⟩
  | fill m =>
    cases m with
    | noOp => exact ⟨fun s => .next s.finish, rfl, .inl ⟨_, rfl⟩⟩
    | black | white | invert => exact ⟨fun s => .next (s.rewritten _), rfl, .inl ⟨_, rfl⟩⟩
  | shift dir => exact ⟨fun s => .next (s.rewritten _), rfl, .inl ⟨_, rfl⟩⟩
  | bitmap =>
    rw [exec]
    cases hb : readBitmap s.srcRead s.act with
    | none =>
      exact ⟨_, execBitmap_of_unreadable hb, .inr ⟨rfl, by simp [← s.readBitmap_isSome_iff, hb], rfl⟩⟩
    | some q => exact ⟨_, execBitmap_of_readable hb, .inl ⟨_, rfl⟩⟩

theorem exec_of_invalid (hv : s.regionValid = false) (i : Instr) : exec i s = .fault .fbUnmapped := by
  obtain ⟨k, hk, -⟩ := exec_eq_engineStep i s
  rw [hk, s.engineStep_invalid hv]

theorem exec_of_valid (hv : s.regionValid = true) (i : Instr) :
    (∃ t, exec i s = .next t) ∨ (i = .bitmap ∧ ¬ s.SourceReadable ∧ exec i s = .fault .srcUnreadable) := by
  obtain ⟨k, hk, hanswer⟩ := exec_eq_engineStep i s
  rwa [hk, s.engineStep_valid hv]

theorem exec_completes (hv : s.regionValid = true) {i : Instr} (hr : i = .bitmap → s.SourceReadable) :
    ∃ t, exec i s = .next t :=
  (exec_of_valid hv i).resolve_right fun ⟨hi, hn, _⟩ => hn (hr hi)

theorem exec_bitmap_of_not_readable (hv : s.regionValid = true) (hr : ¬ s.SourceReadable) :
    exec .bitmap s = .fault .srcUnreadable := by
  rw [← s.readBitmap_isSome_iff, Option.not_isSome_iff_eq_none] at hr
  rw [exec, execBitmap_of_unreadable hr, s.engineStep_valid hv]

/-! ### The region check (20 R52) -/

theorem State.regionValid_of_empty (h : s.act.geom.bytes = 0) : s.regionValid = true := by
  simp [State.regionValid, h]

theorem State.regionValid_eq_false (hpos : 0 < s.act.geom.bytes)
    (h : 2 ^ 32 < s.act.geom.base + s.act.geom.bytes ∨
      fbMapped s.platform s.act.geom.base s.act.geom.bytes = false) : s.regionValid = false := by
  have hne : s.act.geom.bytes ≠ 0 := by omega
  simpa only [State.regionValid, hne, decide_false, Bool.false_or, Bool.and_eq_false_iff, decide_eq_false_iff_not,
    Nat.not_le] using h

theorem Geom.contains_of_empty {g : Geom} (h : g.bytes = 0) (x y : Int) : g.contains x y = false := by
  rw [← Bool.not_eq_true, Geom.contains_iff]
  rintro ⟨hx, hy, hxw, hyh⟩
  have hw := g.w_le
  have hlt := g.index_lt (x := x.toNat) (y := y.toNat) (by omega) (by omega)
  omega

theorem plotAll_of_empty {g : Geom} (h : g.bytes = 0) (ps : List Plot) (m : Mem) : plotAll g ps m = m := by
  induction ps with
  | nil => rfl
  | cons p ps ih =>
    have hp : plotOne g m p = m := by simp [plotOne, Geom.contains_of_empty h]
    rw [plotAll_cons, hp, ih]

theorem exec_fbmem_of_empty {i : Instr} (hb : s.act.geom.bytes = 0) (h : exec i s = .next t) : t.fbmem = s.fbmem := by
  obtain ⟨-, ⟨ps, rfl⟩ | ⟨f, rfl⟩ | ⟨-, rfl⟩ | ⟨-, rfl⟩⟩ := exec_cases h
  · exact plotAll_of_empty hb ps _
  · rw [State.rewritten_fbmem, hb]
    rfl
  · rfl
  · rfl

end

/-- Settles O9: every command makes the region check first, and an empty region passes it. -/
theorem invalidRegionFaults : Obligations.InvalidRegionFaults := by
  intro i s
  refine ⟨fun hpos hbad => exec_of_invalid (State.regionValid_eq_false hpos hbad) i,
    fun hb => ⟨fun hf => ?_, fun t => exec_fbmem_of_empty hb⟩⟩
  obtain ⟨t, ht⟩ | ⟨-, -, hsrc⟩ := exec_of_valid (State.regionValid_of_empty hb) i
  · cases ht.symm.trans hf
  · cases hsrc.symm.trans hf

/-- Settles O30: a byte of the header or of the data that is unreadable leaves the source unreadable. -/
theorem unreadableSourceFaults : Obligations.UnreadableSourceFaults := by
  intro s hv
  obtain ⟨-, -, -, -, hfirst, hsecond⟩ :=
    headerTakesZeroOperands s.srcRead s.act.source s.act.size2 s.act.bitmapWidth s.act.bitmapHeight
  have noHeader (hn : readHeader s.srcRead s.act.source s.act.size2 s.act.bitmapWidth s.act.bitmapHeight = none) :
      exec .bitmap s = .fault .srcUnreadable := by
    refine exec_bitmap_of_not_readable hv ?_
    rintro ⟨b, hb, -⟩
    cases hn.symm.trans hb
  refine ⟨fun a => s.srcRead_past_top, fun hz hrd => noHeader (hfirst hz hrd),
    fun hw hh hrd => noHeader (hsecond hw hh hrd), noHeader, ?_⟩
  rintro b hb ⟨n, hn, hrd⟩
  refine exec_bitmap_of_not_readable hv ?_
  rintro ⟨b', hb', hall⟩
  cases hb.symm.trans hb'
  exact absurd (hall n hn) (by simp [hrd])

/-! ### The bytes a command and a step change (20 R51, R57, R60) -/

section

variable {s t : State}

/-- A completed command leaves every byte outside its region. -/
theorem exec_read_outside {i : Instr} (hm : Mem.wf s.fbmem = true) (h : exec i s = .next t) {a : Nat}
    (ha : s.act.geom.inRegion a = false) : Mem.read t.fbmem a = Mem.read s.fbmem a := by
  obtain ⟨hv, ⟨ps, rfl⟩ | ⟨f, rfl⟩ | ⟨-, rfl⟩ | ⟨-, rfl⟩⟩ := exec_cases h
  · obtain ⟨-, houtside, -⟩ := plotAll_spec hm (State.fits_of_valid hv) ps
    exact houtside a ha
  · obtain ⟨-, -, houtside⟩ := State.rewritten_read hm (State.fits_of_valid hv) f
    exact houtside a ha
  · rfl
  · rfl

/-- A reset while busy leaves every byte outside the abandoned command's region. -/
theorem State.scramble_read_outside (hm : Mem.wf s.fbmem = true) (hv : s.regionValid = true) {a : Nat}
    (ha : s.act.geom.inRegion a = false) : Mem.read s.scramble.fbmem a = Mem.read s.fbmem a := by
  obtain ⟨-, -, houtside⟩ :=
    State.rewritten_read hm (State.fits_of_valid hv) fun i => Config.freeByte (s.draws + i)
  exact houtside a ha

/-- A move of the outside that changes a byte of FBMEM is a host byte write there or a reset while busy. -/
theorem outsideStep_changed_byte {i : Input} (hm : Mem.wf s.fbmem = true) (h : outsideStep i s = .next t) {a : Nat}
    (hne : Mem.read t.fbmem a ≠ Mem.read s.fbmem a) :
    (∃ w v, i = .fbWrite w 8 v ∧ w.toNat = a ∧ s.inBusyRegion w = false) ∨
    (i = .reset ∧ s.busy = true ∧ s.act.geom.inRegion a = true) := by
  obtain ⟨_, r, -, -, rfl⟩ | ⟨_, r, v, -, -, rfl⟩ | ⟨-, rfl⟩ | ⟨_, -, rfl⟩ | ⟨w, v, rfl, hr, rfl⟩ | ⟨_, -, rfl⟩ |
    ⟨-, -, rfl⟩ | ⟨rfl, hb, hv, rfl⟩ := outsideStep_cases h
  case inr.inl => exact absurd (by rw [State.regWrite_fbmem]) hne
  case inr.inr.inr.inr.inl =>
    refine .inl ⟨w, v, rfl, by_contra fun hw => hne ?_, hr⟩
    rw [Mem.read_write hm w.isLt, if_neg (Ne.symm hw)]
  case inr.inr.inr.inr.inr.inr.inr =>
    refine .inr ⟨rfl, hb, by_contra fun ha => hne ?_⟩
    exact State.scramble_read_outside hm hv (Bool.eq_false_of_not_eq_true ha)
  all_goals exact absurd rfl hne

end

/-- Settles O32: outside the region nothing changes, and GET_PIXEL only reads. -/
theorem commandsWriteOnlyTheirRegion : Obligations.CommandsWriteOnlyTheirRegion := by
  intro i s t hwf h
  obtain ⟨hm, -⟩ := s.memoriesWf_iff.1 hwf
  refine ⟨fun a ha => exec_read_outside hm h ha, ?_⟩
  rintro rfl
  rw [exec_getPixel_next h]
  rfl

/-- Settles O41: an idle step changes nothing, and the engine and the outside change only the bytes they may. -/
theorem fbmemChangesOnlyByItsWriters : Obligations.FbmemChangesOnlyByItsWriters := by
  intro s t a hwf h hne
  obtain ⟨hm, -⟩ := s.memoriesWf_iff.1 hwf
  obtain ⟨-, rfl⟩ | ⟨hmove, hexec⟩ | ⟨i, rest, hmove, hout⟩ := step_cases h
  · exact absurd rfl hne
  · refine .inl ⟨hmove, by_contra fun ha => hne ?_⟩
    exact exec_read_outside (s := s.spendTurn) hm hexec (Bool.eq_false_of_not_eq_true ha)
  · obtain ⟨w, v, rfl, hw, hr⟩ | ⟨rfl, hb, ha⟩ := outsideStep_changed_byte (s := s.outsideView rest) hm hout hne
    · exact .inr (.inl ⟨w, v, rest, hmove, hw, hr⟩)
    · exact .inr (.inr ⟨rest, hmove, hb, ha⟩)

end Sys2Proof.Machine
end

section
/-! The memory family, moves (20 R56, R57, R59, R63): the command a step runs, the accesses it refuses, and the race of a
register write with the engine. -/

namespace Sys2Proof.Machine

variable {s t u : State}

/-! ### The command a step runs (20 R59, 60 R234) -/

theorem step_of_idle (hb : s.busy = false) (hi : s.inputs = []) : step s = .next s := by
  simp [step, State.nextMove, hb, hi]

theorem step_of_engine_turn (hb : s.busy = true) (h : s.inputs = [] ∨ s.turns.head? ≠ some .outside) :
    step s = exec s.act.cmd { s with turns := s.turns.tail } := by
  rw [step_of_engine (State.nextMove_engine hb h), State.spendTurn_busy_eq hb]

theorem decode_of_decodeTableWord {nbits w : Nat} {i : Instr} (h : decodeTableWord nbits w = some i) :
    decode (BitVec.ofNat 32 w) = .ok i := by
  unfold decodeTableWord at h
  split at h
  · split at h
    · next hd => cases h; exact hd
    · cases h
  · cases h

theorem State.withFetchWord_of_decode {nbits w : Nat} {i : Instr} (h : decode (BitVec.ofNat 32 w) = .ok i) :
    s.withFetchWord nbits w = { s.accept i with turns := .engine :: s.turns } := by
  rw [State.withFetchWord, State.place, h]

/-- Settles O6: the three cases of a step without a move of the outside. -/
theorem stepRunsLatchedCommand : Obligations.StepRunsLatchedCommand := by
  refine ⟨fun s hb h => step_of_engine_turn hb h, fun s nbits w i h => ?_, fun s hb hi => step_of_idle hb hi⟩
  rw [State.withFetchWord_of_decode (decode_of_decodeTableWord h), step_of_engine_turn rfl (.inr (by simp))]
  rfl

/-! ### Refused accesses (60 R224) -/

section

variable {p : Platform} {addr : Word} {bits : Nat}

theorem regAccess_outside_window (h : addr.extractLsb' 6 26 ≠ p.engineBlock) :
    regAccess p addr bits = .error .outsideWindow := if_pos h

theorem regAccess_wrong_width (h : addr.extractLsb' 6 26 = p.engineBlock) (hb : bits ≠ 32) :
    regAccess p addr bits = .error .regWidth := by
  rw [regAccess, if_neg (not_not.2 h), if_pos hb]

theorem regAccess_misaligned (h : addr.extractLsb' 6 26 = p.engineBlock) (hb : bits = 32) (ha : addr.toNat % 4 ≠ 0) :
    regAccess p addr bits = .error .regMisaligned := by
  rw [regAccess, if_neg (not_not.2 h), if_neg (not_not.2 hb), if_pos ha]

/-- A register read and a register write are refused alike, for the reason the access is. -/
theorem step_of_refused_regAccess {v : Word} {rest : List Input} {e : Refusal}
    (hmove : s.nextMove = .outside (.regRead addr bits) rest ∨ s.nextMove = .outside (.regWrite addr bits v) rest)
    (h : regAccess s.platform addr bits = .error e) : step s = .refused e := by
  rw [← s.outsideView_platform rest] at h
  rcases hmove with hmove | hmove
  · rw [step_of_outside hmove, outsideStep, hostRegRead, h]
  · rw [step_of_outside hmove, outsideStep, hostRegWrite, h]

theorem step_of_wide_fbAccess {v : Word} {rest : List Input}
    (hmove : s.nextMove = .outside (.fbRead addr bits) rest ∨ s.nextMove = .outside (.fbWrite addr bits v) rest)
    (h : bits ≠ 8) : step s = .refused .fbWidth := by
  rcases hmove with hmove | hmove
  · rw [step_of_outside hmove, outsideStep, hostFbRead, if_pos h]
  · rw [step_of_outside hmove, outsideStep, hostFbWrite, if_pos h]

end

/-- Settles O45: the three checks of a register access in their order, and the one of an FBMEM access. -/
theorem otherAccessesAreRefused : Obligations.OtherAccessesAreRefused := by
  intro s rest addr v bits
  refine ⟨fun hmove => ⟨fun hw => ?_, fun hw hb => ?_, fun hw hb ha => ?_⟩, step_of_wide_fbAccess⟩
  · exact step_of_refused_regAccess hmove (regAccess_outside_window hw)
  · exact step_of_refused_regAccess hmove (regAccess_wrong_width hw hb)
  · exact step_of_refused_regAccess hmove (regAccess_misaligned hw hb ha)

/-! ### A register write that races the engine (20 R63, 60 R222) -/

theorem run_succ_of_next {M : Host.Core} {s u : M.State} (h : M.step s = .next u) (k : Nat) :
    M.run (k + 1) s = M.run k u := by
  rw [Host.Core.run, h]

theorem Reaches.of_step (h : step s = .next u) {k : Nat} (hk : Reaches k u t) : Reaches (k + 1) s t :=
  (run_succ_of_next (M := Sys2Proof.core) h k).trans hk

theorem Reaches.two_steps (h : step s = .next u) (h' : step u = .next t) : Reaches 2 s t :=
  .of_step h (.of_step h' rfl)

theorem State.nextMove_outside_busy {i : Input} {rest : List Input} {ts : List Mover} (hb : s.busy = true)
    (hi : s.inputs = i :: rest) (ht : s.turns = .outside :: ts) : s.nextMove = .outside i rest := by
  simp [State.nextMove, hb, hi, ht]

/-- A write of a guarded register made before the engine's step is dropped and sets OVERRUN. -/
theorem step_writeReg_busy {r : Reg} (hr : r ∈ guardedRegs) {v : Word} {rest : List Input} {ts : List Mover}
    (hb : s.busy = true) (hi : s.inputs = writeReg s.platform r v :: rest) (ht : s.turns = .outside :: ts) :
    step s = .next (s.outsideView rest).setOverrun := by
  rw [step_of_outside (State.nextMove_outside_busy hb hi ht), writeReg, outsideStep, hostRegWrite,
    s.outsideView_platform, regAccess_offsetOf]
  exact congrArg _ (State.regWrite_busy (s := s.outsideView rest) hb hr v)

/-- The engine's step of a command that can complete: BUSY falls, and of the rest only FBMEM, RESULT, the schedule and the
count of draws may change. -/
theorem step_completes (hb : s.busy = true) (hturn : s.inputs = [] ∨ s.turns.head? ≠ some .outside)
    (hv : s.regionValid = true) (hr : s.act.cmd = .bitmap → s.SourceReadable) :
    ∃ fb res trn d, step s = .next { s with busy := false, fbmem := fb, result := res, turns := trn, draws := d } := by
  obtain ⟨t, ht⟩ := exec_completes (s := { s with turns := s.turns.tail }) hv hr
  obtain ⟨fb, res, d, rfl, -⟩ := exec_frame ht
  exact ⟨fb, res, _, d, by rw [step_of_engine_turn hb hturn, ht]⟩

/-- Settles O54: in the one order the write finds the block idle, in the other busy. -/
theorem operandWriteRacesTheEngine : Obligations.OperandWriteRacesTheEngine := by
  intro s v hb hv hr hi
  refine ⟨fun ht => ?_, fun ht => ?_⟩
  · obtain ⟨fb, res, trn, d, hstep⟩ := step_completes hb (.inr (by simp [ht])) hv hr
    exact ⟨_, .two_steps hstep (step_writeReg_idle rfl hi), rfl, rfl, rfl⟩
  · have hwrite := step_writeReg_busy (by simp [guardedRegs]) hb hi ht
    obtain ⟨fb, res, trn, d, hstep⟩ :=
      step_completes (s := (s.outsideView []).setOverrun) hb (.inl rfl) hv hr
    exact ⟨_, .two_steps hwrite hstep, rfl, rfl, rfl⟩

end Sys2Proof.Machine
end

section
/-! The encoding family, command words (spec/30_encoding.md, 30 R71 to R77): the rows of the table, and the two reasons
to reject a word. -/

namespace Sys2Proof

/-- Settles O1: a word that decodes is legal, a legal word is the word of its fields' command, and every command decodes
from its own word. -/
theorem decodeInvertsEncode : Obligations.DecodeInvertsEncode := decode_eq_ok_iff

/-! ### The rows of the table (30 R76) -/

theorem exists_decode_iff_legal (v : Word) : (∃ i, decode v = .ok i) ↔ WellFormed.legal v = true :=
  ⟨fun ⟨_, h⟩ => legal_of_decode h, exists_decode_of_legal⟩

theorem exists_row_of_decode {v : Word} {i : Instr} (h : decode v = .ok i) : ∃ r ∈ rows, r.accepts v = true := by
  unfold decode at h
  split at h
  · next r hr => exact ⟨r, List.mem_of_find?_eq_some hr, List.find?_some (p := (Row.accepts · v)) hr⟩
  · cases h

theorem exists_row_iff_legal (v : Word) : (∃ r ∈ rows, r.accepts v = true) ↔ WellFormed.legal v = true := by
  constructor
  · rintro ⟨r, hr, h⟩
    exact legal_of_accepts hr h
  · intro h
    obtain ⟨i, hi⟩ := exists_decode_of_legal h
    exact exists_row_of_decode hi

/-- No two rows have the same opcode. -/
theorem rows_pairwise_opcode :
    rows.Pairwise fun r r' => r.bits.extractLsb' 0 4 ≠ r'.bits.extractLsb' 0 4 := by decide

/-- Every mask covers OP, so the word of a row has the row's opcode. -/
theorem opField_of_accepts {r : Row} (hr : r ∈ rows) {v : Word} (h : r.accepts v = true) :
    v.extractLsb' 0 4 = r.bits.extractLsb' 0 4 := by
  obtain ⟨-, hop, -⟩ := rows_cover r hr
  exact field_of_accepts h hop

theorem accepting_rows_length_le_one (v : Word) : (rows.filter fun r => r.accepts v).length ≤ 1 := by
  have hop : ∀ r ∈ rows.filter fun r => r.accepts v, v.extractLsb' 0 4 = r.bits.extractLsb' 0 4 := by
    intro r hr
    obtain ⟨hmem, hacc⟩ := List.mem_filter.1 hr
    exact opField_of_accepts hmem hacc
  have hpair := rows_pairwise_opcode.filter fun r => r.accepts v
  generalize rows.filter (fun r => r.accepts v) = l at hop hpair ⊢
  match l with
  | [] | [_] => simp
  | r :: r' :: _ =>
    have hne := List.rel_of_pairwise_cons hpair (List.mem_cons_self ..)
    exact absurd ((hop r (by simp)).symm.trans (hop r' (by simp))) hne

/-- Settles O2: a row accepts only legal words, a legal word decodes by a row, and the rows have distinct opcodes. -/
theorem legalWordsMatchOneTableRow : Obligations.LegalWordsMatchOneTableRow := by
  intro v
  refine ⟨?_, (exists_decode_iff_legal v).symm, accepting_rows_length_le_one v⟩
  simpa only [Row.accepts, beq_iff_eq] using (exists_row_iff_legal v).symm

/-! ### The two reasons (30 R77) -/

theorem opAssigned_of_legal {v : Word} (h : WellFormed.legal v = true) : v.toNat % 16 < 10 := by
  simp only [WellFormed.legal, Bool.and_eq_true, WellFormed.opAssigned, decide_eq_true_eq] at h
  obtain ⟨⟨⟨⟨hop, -⟩, -⟩, -⟩, -⟩ := h
  exact hop

/-- An illegal word is rejected by the one name its opcode gives. -/
theorem decode_of_illegal {v : Word} (h : WellFormed.legal v = false) :
    decode v = .error (if v.toNat % 16 < 10 then .mustBeZero else .reservedOpcode) := by
  have hnone : rows.find? (fun r => r.accepts v) = none := by
    rw [List.find?_eq_none]
    intro r hr hacc
    rw [legal_of_accepts hr hacc] at h
    cases h
  rw [decode, hnone]

/-- Settles O3: a legal word has an assigned opcode and is not rejected, and an illegal one is rejected by its opcode. -/
theorem illegalWordsRejectedByName : Obligations.IllegalWordsRejectedByName := by
  intro v
  rw [toNat_opField]
  cases hl : WellFormed.legal v with
  | true =>
    obtain ⟨i, hi⟩ := exists_decode_of_legal hl
    simp [hi, opAssigned_of_legal hl]
  | false =>
    rw [decode_of_illegal hl]
    by_cases hop : v.toNat % 16 < 10
    · simp [hop]
    · simp [hop, Nat.not_lt.1 hop]

/-- Settles O4: each word is the word of its command. -/
theorem sampleWordsDecode : Obligations.SampleWordsDecode := by
  unfold Obligations.SampleWordsDecode
  simp only [decode_eq_ok_iff]
  decide

end Sys2Proof
end

section
/-! The encoding family, fill operands (30 R74): DRAW_RECT and DRAW_CIRCLE complete with the plots of their operands, and
the plots of a circle apart from its loop (42 R144 to R146). -/

namespace Sys2Proof.Machine

theorem State.draw_redrawn {s : State} (hwf : s.memoriesWf = true) (hv : s.regionValid = true) (ps : List Plot) :
    ∃ t, s.draw ps = .next t ∧ Redrawn s t (pixelAfter ps) := by
  obtain ⟨hm, -⟩ := s.memoriesWf_iff.1 hwf
  exact ⟨_, s.engineStep_valid hv _, State.drawn_redrawn hm (State.fits_of_valid hv) ps⟩

theorem rect_fillOperand (x0 y0 : Int) (w h : Nat) (m : Mode) (fe : Bool) (fm : Mode) :
    rect x0 y0 w h m (fillOperand fe fm) = if fe then rectFilled x0 y0 w h fm else rectOutline x0 y0 w h m := by
  cases fe <;> rfl

/-- Settles O23: the command draws its plots, and FE chooses between the two lists. -/
theorem drawRectMakesItsPlots : Obligations.DrawRectMakesItsPlots := by
  intro m fe fm s hwf hv
  rw [← rect_fillOperand]
  exact State.draw_redrawn hwf hv _

/-! ### The circle loop in closed form (42 R144) -/

/-- The variables of the circle loop of radius `r` after `i` passes: `x = i`, and the decision variable and its two
differences as polynomials of `x` and `y`. -/
def circleAt (r : Int) (i : Nat) : CircleVars where
  x := i
  y := midpointY r i
  f := ((i : Int) + 1) ^ 2 + midpointY r i ^ 2 - midpointY r i - r ^ 2
  ddFx := 2 * i + 1
  ddFy := -2 * midpointY r i

theorem midpointY_succ (r : Int) (i : Nat) :
    midpointY r (i + 1) = if 0 ≤ (circleAt r i).f then midpointY r i - 1 else midpointY r i := rfl

theorem circleStart_eq_circleAt (r : Int) : circleStart r = circleAt r 0 := by
  have hf : 1 - r = (((0 : Nat) : Int) + 1) ^ 2 + r ^ 2 - r - r ^ 2 := by
    push_cast
    ring
  rw [circleStart, hf]
  rfl

theorem circleAdvance_circleAt (r : Int) (i : Nat) : circleAdvance (circleAt r i) = circleAt r (i + 1) := by
  unfold circleAdvance
  by_cases hf : 0 ≤ (circleAt r i).f
  · have hy : midpointY r (i + 1) = midpointY r i - 1 := by rw [midpointY_succ, if_pos hf]
    rw [if_pos hf]
    simp only [circleAt, hy, CircleVars.mk.injEq]
    push_cast
    refine ⟨rfl, trivial, ?_, ?_, ?_⟩ <;> ring
  · have hy : midpointY r (i + 1) = midpointY r i := by rw [midpointY_succ, if_neg hf]
    rw [if_neg hf]
    simp only [circleAt, hy, CircleVars.mk.injEq]
    push_cast
    refine ⟨rfl, trivial, ?_, ?_, trivial⟩ <;> ring

theorem midpointY_le (r : Int) (i : Nat) : midpointY r i ≤ r := by
  induction i with
  | zero => exact le_refl r
  | succ i ih =>
    rw [midpointY_succ]
    split
    · omega
    · exact ih

/-- The loop from pass `i` on makes the passes `i`, `i + 1`, .. up to the first whose test fails, or as many as it is
allowed. -/
theorem circleLoop_circleAt (r : Int) (k i : Nat) :
    ∃ n ≤ k, (∀ j, i ≤ j → j < i + n → (j : Int) + 1 < midpointY r j) ∧
      (n < k → midpointY r (i + n) ≤ ((i + n : Nat) : Int) + 1) ∧
      circleLoop k (circleAt r i) = (List.range' i n).map fun j => (circleAt r j, circleAt r (j + 1)) := by
  induction k generalizing i with
  | zero => exact ⟨0, le_refl 0, by omega, by omega, rfl⟩
  | succ k ih =>
    rw [circleLoop, circleAdvance_circleAt]
    by_cases htest : (i : Int) + 1 < midpointY r i
    · obtain ⟨n, hn, hpass, hstop, hloop⟩ := ih (i + 1)
      refine ⟨n + 1, by omega, fun j hij hj => ?_, fun hlt => ?_, ?_⟩
      · obtain rfl | hlt := hij.eq_or_lt
        · exact htest
        · exact hpass j hlt (by omega)
      · rw [← Nat.add_right_comm, Nat.add_assoc] at hstop
        exact hstop (by omega)
      · rw [List.range'_succ, List.map_cons, ← hloop]
        exact if_pos htest
    · exact ⟨0, by omega, by omega, fun _ => by simpa using htest, if_neg htest⟩

/-- The passes of a circle are those before the first test that fails, which comes within `r` passes as `y` never exceeds
`r` (42 R144, R148). -/
theorem circlePasses_eq (r : Nat) :
    ∃ n : Nat, (∀ i : Nat, i < n → (i : Int) + 1 < midpointY r i) ∧ midpointY r n ≤ (n : Int) + 1 ∧
      circlePasses r = (List.range n).map fun i => (circleAt r i, circleAt r (i + 1)) := by
  obtain ⟨n, hn, hpass, hstop, hloop⟩ := circleLoop_circleAt r r 0
  rw [Nat.zero_add] at hpass hstop
  refine ⟨n, fun i => hpass i i.zero_le, ?_, ?_⟩
  · obtain rfl | hlt := hn.eq_or_lt
    · have hy := midpointY_le n n
      omega
    · exact hstop hlt
  · rw [circlePasses, circleStart_eq_circleAt, hloop, List.range_eq_range']

/-! ### The plots of a circle (42 R144, R146) -/

/-- The spans of pass `i`: `x` always changes, and `y` where the pass lowers it. -/
theorem circleSpans_circleAt (cx cy r : Int) (i : Nat) (fm : Mode) :
    circleSpans cx cy (circleAt r i) (circleAt r (i + 1)) fm =
      (if midpointY r (i + 1) = midpointY r i then []
       else spanRow (cy + midpointY r (i + 1)) (cx - (i + 1)) (cx + (i + 1)) fm ++
        spanRow (cy - midpointY r (i + 1)) (cx - (i + 1)) (cx + (i + 1)) fm) ++
      (spanRow (cy + (i + 1)) (cx - midpointY r (i + 1)) (cx + midpointY r (i + 1)) fm ++
        spanRow (cy - (i + 1)) (cx - midpointY r (i + 1)) (cx + midpointY r (i + 1)) fm) := by
  have hx : (circleAt r (i + 1)).x ≠ (circleAt r i).x := by simp [circleAt]
  rw [circleSpans, if_pos hx, ite_not]
  rfl

/-- Settles O21: the passes in closed form give every plot, and the command draws its plots. -/
theorem drawCircleMakesItsPlots : Obligations.DrawCircleMakesItsPlots := by
  refine ⟨fun r => ?_, fun m fe fm s hwf hv => State.draw_redrawn hwf hv _⟩
  obtain ⟨n, hpass, hstop, hpasses⟩ := circlePasses_eq r
  refine ⟨n, hpass, hstop, ?_, fun cx cy m => ⟨?_, fun fm => ?_⟩⟩
  · rw [hpasses, List.map_map]
    rfl
  · simp only [circle, hpasses, List.flatMap_map]
    rfl
  · simp only [circle, hpasses, List.flatMap_map, circleSpans_circleAt, List.append_assoc]
    rfl

end Sys2Proof.Machine
end

section
/-! The encoding family, host programs (30 R83, R84): the poll loop, and the register writes of an assembler line. -/

namespace Sys2Proof.Machine

variable {s : State}

/-! ### The poll loop (30 R84) -/

theorem hostWait_busy (hb : s.busy = true) :
    hostWait s = .next { s with inputs := .wait :: s.inputs, reads := s.reads ++ [.reg s.statusWord] } := by
  rw [hostWait, if_pos hb]
  rfl

theorem hostWait_idle (hb : s.busy = false) :
    hostWait s = .next { s with reads := s.reads ++ [.reg s.statusWord] } := by
  rw [hostWait, if_neg (by simp [hb])]
  rfl

/-- A poll the schedule grants while BUSY = 1 leaves the loop where it was, with one entry of the schedule used up. -/
theorem step_wait_busy {rest : List Input} {ts : List Mover} (hb : s.busy = true) (hi : s.inputs = .wait :: rest)
    (ht : s.turns = .outside :: ts) :
    step s = .next { s with turns := ts, reads := s.reads ++ [.reg s.statusWord] } := by
  rw [step_of_outside (State.nextMove_outside_busy hb hi ht), outsideStep,
    hostWait_busy (s := s.outsideView rest) hb, State.outsideView_inputs, ← hi, State.outsideView,
    State.spendTurn_busy_eq hb, ht]
  rfl

/-- A poll that finds BUSY = 0 leaves the loop. -/
theorem step_wait_idle {rest : List Input} (hb : s.busy = false) (hi : s.inputs = .wait :: rest) :
    step s = .next { s with inputs := rest, reads := s.reads ++ [.reg s.statusWord] } := by
  rw [step_of_outside (State.nextMove_idle_cons hb hi), State.outsideView_idle hb, outsideStep]
  exact hostWait_idle hb

/-- The engine's turn: its step and one more poll leave the loop. -/
theorem poll_loop_ends_at_engine_turn {rest : List Input} (hb : s.busy = true) (hi : s.inputs = .wait :: rest)
    (hv : s.regionValid = true) (hr : s.act.cmd = .bitmap → s.SourceReadable)
    (hturn : s.turns.head? ≠ some .outside) : ∃ t, Reaches 2 s t ∧ t.busy = false ∧ t.inputs = rest := by
  obtain ⟨fb, res, trn, d, hstep⟩ := step_completes hb (.inr hturn) hv hr
  exact ⟨_, .two_steps hstep (step_wait_idle rfl hi), rfl, rfl⟩

/-- Settles O43, by induction on the schedule: each poll it grants uses up an entry, and then it is the engine's turn. -/
theorem pollLoopEnds : Obligations.PollLoopEnds := by
  intro s rest hb hi hv hr
  induction hturns : s.turns generalizing s with
  | nil => exact poll_loop_ends_at_engine_turn hb hi hv hr (by simp [hturns])
  | cons mover ts ih =>
    cases mover with
    | engine => exact poll_loop_ends_at_engine_turn hb hi hv hr (by simp [hturns])
    | outside =>
      obtain ⟨t, hreach, hend⟩ :=
        ih { s with turns := ts, reads := s.reads ++ [.reg s.statusWord] } hb hi hv hr rfl
      exact ⟨t, .of_step (step_wait_busy hb hi hturns) hreach, hend⟩

/-! ### Operand words and the immediates they carry (30 R79, R80) -/

theorem zext16_halves_low (lo hi : Int) : (zext16 (halves lo hi) 0 : Int) = lo % 65536 := by
  rw [zext16, halves, BitVec.extractLsb'_append_eq_right, BitVec.toNat_ofInt]
  omega

theorem zext16_halves_high (lo hi : Int) : (zext16 (halves lo hi) 16 : Int) = hi % 65536 := by
  rw [zext16, halves, BitVec.extractLsb'_append_eq_left, BitVec.toNat_ofInt]
  omega

theorem isCoord_iff (v : Int) : isCoord v = true ↔ -32768 ≤ v ∧ v < 32768 := by simp [isCoord]

theorem isBelow_iff (n v : Int) : isBelow n v = true ↔ 0 ≤ v ∧ v < n := by simp [isBelow]

theorem sext16_eq_of_zext16 {w : Word} {b : Nat} {v : Int} (hv : isCoord v = true) (h : (zext16 w b : Int) = v % 65536) :
    sext16 w b = v := by
  have hmod := sext16_emod w b
  have hrange := sext16_mem_range w b
  rw [isCoord_iff] at hv
  omega

theorem sext16_halves_low {lo : Int} (h : isCoord lo = true) (hi : Int) : sext16 (halves lo hi) 0 = lo :=
  sext16_eq_of_zext16 h (zext16_halves_low lo hi)

theorem sext16_halves_high {hi : Int} (lo : Int) (h : isCoord hi = true) : sext16 (halves lo hi) 16 = hi :=
  sext16_eq_of_zext16 h (zext16_halves_high lo hi)

theorem zext16_halves_low_of_isBelow {lo : Int} (h : isBelow 65536 lo = true) (hi : Int) :
    (zext16 (halves lo hi) 0 : Int) = lo := by
  rw [isBelow_iff] at h
  rw [zext16_halves_low, Int.emod_eq_of_lt h.1 h.2]

theorem zext16_halves_high_of_isBelow {hi : Int} (lo : Int) (h : isBelow 65536 hi = true) :
    (zext16 (halves lo hi) 16 : Int) = hi := by
  rw [isBelow_iff] at h
  rw [zext16_halves_high, Int.emod_eq_of_lt h.1 h.2]

/-- The two bytes of an upper half are the width and the height of a bitmap. -/
theorem zext8_halves_bytes {width height : Int} (lo : Int) (hw : isBelow 256 width = true)
    (hh : isBelow 256 height = true) :
    (zext8 (halves lo (width % 256 + 256 * height)) 16 : Int) = width ∧
      (zext8 (halves lo (width % 256 + 256 * height)) 24 : Int) = height := by
  have hhigh := zext16_halves_high lo (width % 256 + 256 * height)
  rw [zext16_high] at hhigh
  rw [isBelow_iff] at hw hh
  rw [zext8_eq, zext8_top]
  omega

theorem toNat_ofInt_of_isBelow {v : Int} (h : isBelow 4294967296 v = true) : ((BitVec.ofInt 32 v).toNat : Int) = v := by
  rw [isBelow_iff] at h
  rw [BitVec.toNat_ofInt]
  omega

section

variable {a : Latch} {lo hi : Int}

theorem Latch.coords_of_arg0 (h : a.a0 = halves lo hi) (hlo : isCoord lo = true) (hhi : isCoord hi = true) :
    a.coord0 = lo ∧ a.coord1 = hi := by
  rw [Latch.coord0, Latch.coord1, h]
  exact ⟨sext16_halves_low hlo hi, sext16_halves_high lo hhi⟩

theorem Latch.coords_of_arg1 (h : a.a1 = halves lo hi) (hlo : isCoord lo = true) (hhi : isCoord hi = true) :
    a.coord2 = lo ∧ a.coord3 = hi := by
  rw [Latch.coord2, Latch.coord3, h]
  exact ⟨sext16_halves_low hlo hi, sext16_halves_high lo hhi⟩

theorem Latch.size0_of_arg0 (h : a.a0 = halves lo hi) (hlo : isBelow 65536 lo = true) : (a.size0 : Int) = lo := by
  rw [Latch.size0, h]
  exact zext16_halves_low_of_isBelow hlo hi

theorem Latch.size2_of_arg1 (h : a.a1 = halves lo hi) (hlo : isBelow 65536 lo = true) : (a.size2 : Int) = lo := by
  rw [Latch.size2, h]
  exact zext16_halves_low_of_isBelow hlo hi

theorem Latch.size3_of_arg1 (h : a.a1 = halves lo hi) (hhi : isBelow 65536 hi = true) : (a.size3 : Int) = hi := by
  rw [Latch.size3, h]
  exact zext16_halves_high_of_isBelow lo hhi

end

/-- A latch holds the operand words of a line. -/
def Line.LatchedIn (l : Line) (a : Latch) : Prop :=
  (∀ v, (Reg.arg0, v) ∈ l.operands → a.a0 = v) ∧
  (∀ v, (Reg.arg1, v) ∈ l.operands → a.a1 = v) ∧
  (∀ v, (Reg.arg2, v) ∈ l.operands → a.a2 = v)

/-- Immediates that fit their fields are read back from the operand words. -/
theorem Line.carriedBy_of_latchedIn {l : Line} {a : Latch} (h : l.LatchedIn a) (hr : l.inRange = true) :
    l.CarriedBy a := by
  obtain ⟨h0, h1, h2⟩ := h
  cases l with
  | fill m => trivial
  | setPixel x y m | getPixel x y =>
    obtain ⟨hx, hy⟩ := Bool.and_eq_true_iff.1 hr
    exact Latch.coords_of_arg0 (h0 _ (.head _)) hx hy
  | drawRow u v w m | drawColumn u v w m =>
    simp only [Line.inRange, Bool.and_eq_true] at hr
    obtain ⟨⟨hu, hv⟩, hw⟩ := hr
    obtain ⟨hc0, hc1⟩ := Latch.coords_of_arg0 (h0 _ (.head _)) hu hv
    exact ⟨hc0, hc1, Latch.coords_of_arg1 (h1 _ (.tail _ (.head _))) hw rfl⟩
  | drawLine x0 y0 x1 y1 m =>
    simp only [Line.inRange, Bool.and_eq_true] at hr
    obtain ⟨⟨⟨hx0, hy0⟩, hx1⟩, hy1⟩ := hr
    obtain ⟨hc0, hc1⟩ := Latch.coords_of_arg0 (h0 _ (.head _)) hx0 hy0
    exact ⟨hc0, hc1, Latch.coords_of_arg1 (h1 _ (.tail _ (.head _))) hx1 hy1⟩
  | drawRect x0 y0 w h m fill =>
    simp only [Line.inRange, Bool.and_eq_true] at hr
    obtain ⟨⟨⟨hx, hy⟩, hw⟩, hh⟩ := hr
    obtain ⟨hc0, hc1⟩ := Latch.coords_of_arg0 (h0 _ (.head _)) hx hy
    have ha1 := h1 _ (.tail _ (.head _))
    exact ⟨hc0, hc1, Latch.size2_of_arg1 ha1 hw, Latch.size3_of_arg1 ha1 hh⟩
  | drawCircle cx cy radius m fill =>
    simp only [Line.inRange, Bool.and_eq_true] at hr
    obtain ⟨⟨hx, hy⟩, hradius⟩ := hr
    obtain ⟨hc0, hc1⟩ := Latch.coords_of_arg0 (h0 _ (.head _)) hx hy
    have ha1 := h1 _ (.tail _ (.head _))
    exact ⟨hc0, hc1, Latch.size2_of_arg1 ha1 hradius, Int.natCast_eq_zero.1 (Latch.size3_of_arg1 ha1 rfl)⟩
  | shift distance dir =>
    have ha0 := h0 _ (.head _)
    exact ⟨Latch.size0_of_arg0 ha0 hr, (congrArg (sext16 · 16) ha0).trans (sext16_halves_high distance rfl)⟩
  | bitmap x y source offset width height =>
    simp only [Line.inRange, Bool.and_eq_true] at hr
    obtain ⟨⟨⟨⟨⟨hx, hy⟩, hsource⟩, hoffset⟩, hwidth⟩, hheight⟩ := hr
    obtain ⟨hc0, hc1⟩ := Latch.coords_of_arg0 (h0 _ (.head _)) hx hy
    have ha1 := h1 _ (.tail _ (.head _))
    refine ⟨hc0, hc1, ?_, Latch.size2_of_arg1 ha1 hoffset, ?_⟩
    · rw [Latch.source, h2 _ (.tail _ (.tail _ (.head _)))]
      exact toNat_ofInt_of_isBelow hsource
    · rw [Latch.bitmapWidth, Latch.bitmapHeight, ha1]
      exact zext8_halves_bytes offset hwidth hheight

/-! ### The register writes of a line (30 R83) -/

/-- The registers a line writes its operands to. -/
def operandRegs : List Reg := [.arg0, .arg1, .arg2]

/-- A line writes the operand registers from ARG0 up, each once. -/
theorem Line.operands_regs (l : Line) : l.operands.map Prod.fst = operandRegs.take l.operands.length := by
  cases l <;> rfl

/-- The step of a host write to an operand register of an idle block replaces that register and no other. -/
theorem step_writeOperand_idle {r : Reg} (hr : r ∈ operandRegs) {v : Word} {rest : List Input} (hb : s.busy = false)
    (hi : s.inputs = writeReg s.platform r v :: rest) :
    ∃ t, step s = .next t ∧ t.busy = false ∧ t.platform = s.platform ∧ t.inputs = rest ∧ t.fbmem = s.fbmem ∧
      ∀ q, t.regValue q = if q = r then v else s.regValue q := by
  have hb' : State.busy { s with inputs := rest } = false := hb
  rw [step_writeReg_idle hb hi]
  simp only [operandRegs, List.mem_cons, List.not_mem_nil, or_false] at hr
  rcases hr with rfl | rfl | rfl
  · rw [State.regWrite_arg0_idle hb']
    exact ⟨_, rfl, hb, rfl, rfl, rfl, fun q => by cases q <;> rfl⟩
  · rw [State.regWrite_arg1_idle hb']
    exact ⟨_, rfl, hb, rfl, rfl, rfl, fun q => by cases q <;> rfl⟩
  · rw [State.regWrite_arg2_idle hb']
    exact ⟨_, rfl, hb, rfl, rfl, rfl, fun q => by cases q <;> rfl⟩

/-- Operand writes, each register once, and then the write of a command's word, one a step: the command is accepted in a
state whose registers are those written and, for the rest, those there before. -/
theorem reaches_accept {ws : List (Reg × Word)} {i : Instr} {rest : List Input} (hregs : ∀ q ∈ ws, q.1 ∈ operandRegs)
    (hnodup : (ws.map Prod.fst).Nodup) (hb : s.busy = false)
    (hi : s.inputs = ws.map (fun q => writeReg s.platform q.1 q.2) ++ writeReg s.platform .cmd (encode i) :: rest) :
    ∃ u : State, Reaches (ws.length + 1) s (u.accept i) ∧ u.inputs = rest ∧ u.fbmem = s.fbmem ∧
      (∀ r v, (r, v) ∈ ws → u.regValue r = v) ∧ ∀ r, r ∉ ws.map Prod.fst → u.regValue r = s.regValue r := by
  induction ws generalizing s with
  | nil =>
    have hstep := step_writeReg_idle hb hi
    rw [State.regWrite_cmd_idle (s := { s with inputs := rest }) hb, State.submit_of_decode (decode_encode i)] at hstep
    exact ⟨_, .of_step hstep rfl, rfl, rfl, by simp, fun r _ => by cases r <;> rfl⟩
  | cons w ws ih =>
    obtain ⟨r, v⟩ := w
    rw [List.map_cons, List.nodup_cons] at hnodup
    rw [List.forall_mem_cons] at hregs
    obtain ⟨hr, hregs⟩ := hregs
    obtain ⟨hfresh, hnodup⟩ := hnodup
    obtain ⟨t, hstep, hbt, hplatform, hins, hfbt, hval⟩ := step_writeOperand_idle hr hb hi
    obtain ⟨u, hreach, hinputs, hfb, hwritten, hkept⟩ := ih hregs hnodup hbt (by rw [hins, hplatform]; rfl)
    refine ⟨u, .of_step hstep hreach, hinputs, hfb.trans hfbt, fun q x hq => ?_, fun q hq => ?_⟩
    · obtain heq | hq := List.mem_cons.1 hq
      · cases heq
        rw [hkept r hfresh, hval, if_pos rfl]
      · exact hwritten q x hq
    · rw [List.map_cons, List.mem_cons, not_or] at hq
      obtain ⟨hne, hq⟩ := hq
      rw [hkept q hq, hval, if_neg hne]

/-- Settles O55: the operand writes and the write of CMD are those of the line, and acceptance latches what they left. -/
theorem assembledLineLatchesItsCommand : Obligations.AssembledLineLatchesItsCommand := by
  intro l s rest hb hi
  have hregs := l.operands_regs
  rw [Line.assemble, List.append_assoc] at hi
  obtain ⟨u, hreach, hinputs, hfb, hwritten, -⟩ := reaches_accept (ws := l.operands)
    (fun q hq => List.mem_of_mem_take (hregs ▸ List.mem_map_of_mem hq))
    (hregs ▸ List.Nodup.sublist (List.take_sublist ..) (by decide)) hb hi
  exact ⟨_, hreach, rfl, rfl, hinputs, hfb, hwritten .arg0, hwritten .arg1, hwritten .arg2,
    Line.carriedBy_of_latchedIn ⟨hwritten .arg0, hwritten .arg1, hwritten .arg2⟩⟩

end Sys2Proof.Machine
end

section
/-! The framebuffer family (spec/40_framebuffer.md): a plot as a function of each byte, which gives the laws of plots, and
the commands SET_PIXEL and FILL with their laws. -/

namespace Sys2Proof.Machine

/-! ### A mode under a mask, twice (00 R14) -/

theorem applyMode_idem {md : Mode} (h : md = .white ∨ md = .black) (b k : Byte) :
    applyMode md (applyMode md b k) k = applyMode md b k := by
  rcases h with rfl | rfl
  · exact (BitVec.or_assoc b k k).trans (congrArg (b ||| ·) BitVec.or_self)
  · exact (BitVec.and_assoc b (~~~k) (~~~k)).trans (congrArg (b &&& ·) BitVec.and_self)

theorem applyMode_invert_twice (b k : Byte) : applyMode .invert (applyMode .invert b k) k = b :=
  (BitVec.xor_assoc ..).trans (by rw [BitVec.xor_self, BitVec.xor_zero])

theorem applyMode_right_comm (md : Mode) (b k l : Byte) :
    applyMode md (applyMode md b k) l = applyMode md (applyMode md b l) k := by
  cases md with
  | noOp => rfl
  | white | black | invert =>
    simp only [applyMode]
    ac_rfl

/-! ### A plot, byte by byte (40 R100) -/

/-- What a plot leaves at address `a` from the byte there: its mode under the mask of its column, at the one byte its
pixel lies in. -/
def Plot.byteAfter (g : Geom) (p : Plot) (a : Nat) (b : Byte) : Byte :=
  if g.contains p.x p.y = true ∧ a = g.base + g.index p.x.toNat p.y.toNat then applyMode p.mode b (bitmask p.x.toNat)
  else b

section

variable {g : Geom} {m : Mem}

theorem Geom.pixelAddr_lt (hg : g.Fits) {x y : Int} (h : g.contains x y = true) :
    g.base + g.index x.toNat y.toNat < 2 ^ 32 := by
  rw [Geom.contains_iff] at h
  have hw := g.w_le
  have hi := g.index_lt (x := x.toNat) (y := y.toNat) (by omega) (by omega)
  unfold Geom.Fits at hg
  omega

theorem plotOne_of_not_plotted {p : Plot} (h : g.contains p.x p.y = false ∨ p.mode = .noOp) : plotOne g m p = m := by
  rcases h with h | h <;> simp [plotOne, h]

theorem plotOne_read (hm : Mem.wf m = true) (hg : g.Fits) (p : Plot) (a : Nat) :
    Mem.read (plotOne g m p) a = p.byteAfter g a (Mem.read m a) := by
  unfold Plot.byteAfter
  by_cases hno : p.mode = .noOp
  · rw [plotOne_of_not_plotted (.inr hno), hno]
    exact (ite_self _).symm
  · cases hc : g.contains p.x p.y with
    | false => rw [plotOne_of_not_plotted (.inl hc), if_neg (by simp)]
    | true =>
      have hw : plotOne g m p = Mem.write m _ _ := if_pos (by simp [hc, hno])
      rw [hw, Mem.read_write hm (g.pixelAddr_lt hg hc)]
      by_cases ha : a = g.base + g.index p.x.toNat p.y.toNat
      · rw [if_pos ha, if_pos ⟨rfl, ha⟩, ha]
        rfl
      · rw [if_neg ha, if_neg fun h => ha h.2]

theorem plotOne_read_ne (hm : Mem.wf m = true) (hg : g.Fits) {p : Plot} {a : Nat}
    (h : Mem.read (plotOne g m p) a ≠ Mem.read m a) : a = g.base + g.index p.x.toNat p.y.toNat := by
  by_contra ha
  exact h ((plotOne_read hm hg p a).trans (if_neg fun hp => ha hp.2))

theorem plotOne_idem (hm : Mem.wf m = true) (hg : g.Fits) {p : Plot} (h : p.mode = .white ∨ p.mode = .black) :
    plotOne g (plotOne g m p) p = plotOne g m p := by
  have h1 := plotOne_wf hm hg p
  refine Mem.ext_read (plotOne_wf h1 hg p) h1 fun a => ?_
  rw [plotOne_read h1 hg, plotOne_read hm hg]
  unfold Plot.byteAfter
  split
  · exact applyMode_idem h ..
  · rfl

theorem plotOne_invert_twice (hm : Mem.wf m = true) (hg : g.Fits) {p : Plot} (h : p.mode = .invert) :
    plotOne g (plotOne g m p) p = m := by
  have h1 := plotOne_wf hm hg p
  refine Mem.ext_read (plotOne_wf h1 hg p) hm fun a => ?_
  rw [plotOne_read h1 hg, plotOne_read hm hg]
  unfold Plot.byteAfter
  split
  · rw [h]
    exact applyMode_invert_twice ..
  · rfl

theorem plotOne_right_comm (hm : Mem.wf m = true) (hg : g.Fits) {p q : Plot} (h : p.mode = q.mode) :
    plotOne g (plotOne g m p) q = plotOne g (plotOne g m q) p := by
  have hp := plotOne_wf hm hg p
  have hq := plotOne_wf hm hg q
  refine Mem.ext_read (plotOne_wf hp hg q) (plotOne_wf hq hg p) fun a => ?_
  rw [plotOne_read hp hg, plotOne_read hm hg, plotOne_read hq hg, plotOne_read hm hg]
  unfold Plot.byteAfter
  rw [h]
  split
  · split
    · exact applyMode_right_comm ..
    · rfl
  · rfl

end

/-- Settles O11: a plot is a function of each byte, and the laws are those of the modes on one byte. -/
theorem plotActsOnOnePixel : Obligations.PlotActsOnOnePixel := by
  intro g m hm hg
  exact ⟨fun _ => plotOne_of_not_plotted, fun p _ _ => plotOne_pixel hm hg p, fun _ _ => plotOne_read_ne hm hg,
    fun _ => plotOne_idem hm hg, fun _ => plotOne_invert_twice hm hg, fun _ _ => plotOne_right_comm hm hg⟩

/-! ### SET_PIXEL (40 R101) -/

variable {s : State}

theorem exec_setPixel (hv : s.regionValid = true) (md : Mode) :
    exec (.setPixel md) s = .next (s.drawn [⟨s.act.coord0, s.act.coord1, md⟩]) := by
  rw [exec, execSetPixel, State.draw, s.engineStep_valid hv]

theorem pixelAfter_singleton (p : Plot) :
    pixelAfter [p] = fun x y b => if x = p.x ∧ y = p.y then applyBit p.mode b else b := by
  funext x y b
  simp [pixelAfter, eq_comm]

/-- Settles O12: the command makes one plot. -/
theorem setPixelDrawsItsPixel : Obligations.SetPixelDrawsItsPixel := by
  intro md s hwf hv
  have h := State.draw_redrawn hwf hv [⟨s.act.coord0, s.act.coord1, md⟩]
  rwa [pixelAfter_singleton] at h

/-! ### FILL (40 R103) -/

theorem fillByte_invert (b : Byte) : fillByte .invert b = ~~~b := BitVec.xor_allOnes

theorem fillByte_invert_black (b : Byte) : fillByte .invert (fillByte .black b) = fillByte .white b := BitVec.zero_xor

theorem State.rewritten_fillByte_read (hm : Mem.wf s.fbmem = true) (hv : s.regionValid = true) (md : Mode) (a : Nat) :
    Mem.read (s.rewritten fun i => fillByte md (s.act.geom.byteAt s.fbmem i)).fbmem a =
      if s.act.geom.inRegion a = true then fillByte md (Mem.read s.fbmem a) else Mem.read s.fbmem a := by
  obtain ⟨-, hread⟩ := Mem.writeRange_spec hm s.act.geom.base
    (fun i => fillByte md (s.act.geom.byteAt s.fbmem i)) (State.fits_of_valid hv)
  rw [State.rewritten_fbmem, hread]
  simp only [Geom.inRegion_iff]
  split
  · next h => rw [Geom.byteAt, Nat.add_sub_cancel' h.1]
  · rfl

/-- FILL completes: every byte of the region takes its new value, NoOp's too, and every other byte stays. -/
theorem exec_fill (hm : Mem.wf s.fbmem = true) (hv : s.regionValid = true) (md : Mode) :
    ∃ fb, exec (.fill md) s = .next { s with busy := false, fbmem := fb } ∧
      ∀ a, Mem.read fb a =
        if s.act.geom.inRegion a = true then fillByte md (Mem.read s.fbmem a) else Mem.read s.fbmem a := by
  cases md with
  | noOp =>
    rw [exec, execFill, s.engineStep_valid hv]
    exact ⟨_, rfl, fun _ => (ite_self _).symm⟩
  | black | white | invert =>
    simp only [exec, execFill, State.rewrite, s.engineStep_valid hv]
    exact ⟨_, rfl, State.rewritten_fillByte_read hm hv _⟩

/-- Settles O14: what FILL leaves at each address, inside the region and outside it. -/
theorem fillWritesEveryByte : Obligations.FillWritesEveryByte := by
  intro md s hwf hv
  obtain ⟨hm, -⟩ := s.memoriesWf_iff.1 hwf
  obtain ⟨fb, hexec, hread⟩ := exec_fill hm hv md
  refine ⟨_, hexec, rfl, fun i hi => ?_, fun a ha => ?_⟩
  · rw [hread, if_pos ((Geom.inRegion_iff ..).2 ⟨by omega, by omega⟩)]
    cases md with
    | invert => exact fillByte_invert _
    | black | white | noOp => rfl
  · rw [hread, if_neg (by simp [ha])]

/-! ### Two commands, one after the other (40 R104) -/

theorem setPixel_getPixel_result (hwf : s.memoriesWf = true) (hv : s.regionValid = true) {x y : Nat}
    (hx : s.act.coord0 = x) (hy : s.act.coord1 = y) (hw : x < s.act.geom.w) (hh : y < s.act.geom.h) (md : Mode) :
    ∃ t u, exec (.setPixel md) s = .next t ∧ exec .getPixel t = .next u ∧ u.result = applyBit md (s.pixelAt x y) := by
  obtain ⟨hm, -⟩ := s.memoriesWf_iff.1 hwf
  refine ⟨_, _, exec_setPixel hv md, exec_getPixel hv, ?_⟩
  rw [State.finish_result, State.readPixel_result, State.drawn_act, hx, hy]
  obtain ⟨hr, -⟩ := State.pixelResult_of_inside (s := s.drawn [⟨x, y, md⟩]) hw hh
  obtain ⟨-, hpixel, -⟩ := State.drawn_redrawn hm (State.fits_of_valid hv) [⟨x, y, md⟩]
  rw [hr, hpixel x y hw hh, pixelAfter_singleton]
  exact if_pos ⟨rfl, rfl⟩

theorem setPixel_invert_twice (hwf : s.memoriesWf = true) (hv : s.regionValid = true) :
    ∃ t u, exec (.setPixel .invert) s = .next t ∧ exec (.setPixel .invert) t = .next u ∧ u.fbmem = s.fbmem := by
  obtain ⟨hm, -⟩ := s.memoriesWf_iff.1 hwf
  refine ⟨_, _, exec_setPixel hv _, exec_setPixel (s := s.drawn _) hv _, ?_⟩
  exact plotOne_invert_twice hm (State.fits_of_valid hv) rfl

/-- Both fills leave memories that hold 0xFF in the region and the old bytes outside it. -/
theorem fill_black_invert_eq_white (hwf : s.memoriesWf = true) (hv : s.regionValid = true) :
    ∃ t u v, exec (.fill .black) s = .next t ∧ exec (.fill .invert) t = .next u ∧ exec (.fill .white) s = .next v ∧
      u.fbmem = v.fbmem := by
  obtain ⟨hm, -⟩ := s.memoriesWf_iff.1 hwf
  obtain ⟨fb, hblack, hreadB⟩ := exec_fill hm hv .black
  have hmB := exec_fbmem_wf hblack hm
  obtain ⟨fi, hinvert, hreadI⟩ := exec_fill hmB hv .invert
  obtain ⟨fw, hwhite, hreadW⟩ := exec_fill hm hv .white
  refine ⟨_, _, _, hblack, hinvert, hwhite,
    Mem.ext_read (exec_fbmem_wf hinvert hmB) (exec_fbmem_wf hwhite hm) fun a => ?_⟩
  rw [hreadI, hreadW, hreadB]
  split
  · exact fillByte_invert_black _
  · rfl

/-- Settles O15: each law follows from what its two commands do to the framebuffer. -/
theorem frameBufferLaws : Obligations.FrameBufferLaws := fun _ hwf hv =>
  ⟨fun _ _ hx hy hw hh =>
    ⟨setPixel_getPixel_result hwf hv hx hy hw hh .white, setPixel_getPixel_result hwf hv hx hy hw hh .black⟩,
    setPixel_invert_twice hwf hv, fill_black_invert_eq_white hwf hv⟩

end Sys2Proof.Machine
end

section
/-! The span family (spec/41_span.md): what plots in one mode do to a pixel, the plots of a span, and the commands
DRAW_ROW and DRAW_COLUMN. -/

namespace Sys2Proof.Machine

/-! ### Plots in one mode (40 R100) -/

/-- Plots in one mode act on a pixel as often as its plot is listed. -/
theorem pixelAfter_eq_iterate {ps : List Plot} {md : Mode} (h : ∀ p ∈ ps, p.mode = md) (x y : Int) (b : BitVec 1) :
    pixelAfter ps x y b = (applyBit md)^[ps.count ⟨x, y, md⟩] b := by
  induction ps generalizing b with
  | nil => rfl
  | cons p ps ih =>
    obtain ⟨px, py, pm⟩ := p
    rw [List.forall_mem_cons] at h
    obtain ⟨rfl, h⟩ := h
    have hcons : pixelAfter (⟨px, py, pm⟩ :: ps) x y b =
      pixelAfter ps x y (if px = x ∧ py = y then applyBit pm b else b) := rfl
    rw [hcons, ih h, List.count_cons]
    by_cases hp : px = x ∧ py = y
    · obtain ⟨rfl, rfl⟩ := hp
      simp
    · simp [hp]

theorem pixelAfter_of_nodup {ps : List Plot} {md : Mode} (h : ∀ p ∈ ps, p.mode = md) (hnd : ps.Nodup) (x y : Int)
    (b : BitVec 1) : pixelAfter ps x y b = if ⟨x, y, md⟩ ∈ ps then applyBit md b else b := by
  rw [pixelAfter_eq_iterate h, hnd.count]
  split <;> rfl

/-! ### The plots of a span (41 R120, R123) -/

/-- The range of an interval is cast to the integers before it is moved; here it is one map. -/
theorem interval_eq_map_range (a b : Int) :
    interval a b = (List.range (b + 1 - a).toNat).map fun n : Nat => a + (n : Int) :=
  (congrArg (List.map (a + ·)) (List.flatMap_pure_eq_map ..)).trans List.map_map

theorem mem_interval {a b z : Int} : z ∈ interval a b ↔ a ≤ z ∧ z ≤ b := by
  rw [interval_eq_map_range, List.mem_map]
  simp only [List.mem_range]
  constructor
  · rintro ⟨n, hn, rfl⟩
    omega
  · intro h
    exact ⟨(z - a).toNat, by omega, by omega⟩

theorem nodup_interval (a b : Int) : (interval a b).Nodup := by
  rw [interval_eq_map_range]
  exact List.nodup_range.map fun _ _ h => Int.ofNat_inj.1 (Int.add_left_cancel h)

section

variable {c u v : Int} {md : Mode}

theorem mem_spanRow {p : Plot} :
    p ∈ spanRow c u v md ↔ p.y = c ∧ (min u v ≤ p.x ∧ p.x ≤ max u v) ∧ p.mode = md := by
  cases p
  simp only [spanRow, List.mem_map, mem_interval, Plot.mk.injEq, ↓existsAndEq, true_and]
  tauto

theorem nodup_spanRow : (spanRow c u v md).Nodup :=
  (nodup_interval _ _).map fun _ _ h => congrArg Plot.x h

theorem mem_spanCol {p : Plot} :
    p ∈ spanCol c u v md ↔ p.x = c ∧ (min u v ≤ p.y ∧ p.y ≤ max u v) ∧ p.mode = md := by
  cases p
  simp only [spanCol, List.mem_map, mem_interval, Plot.mk.injEq, ↓existsAndEq, true_and]
  tauto

theorem nodup_spanCol : (spanCol c u v md).Nodup :=
  (nodup_interval _ _).map fun _ _ h => congrArg Plot.y h

theorem pixelAfter_spanRow :
    pixelAfter (spanRow c u v md) = fun x y b => if y = c ∧ min u v ≤ x ∧ x ≤ max u v then applyBit md b else b := by
  funext x y b
  rw [pixelAfter_of_nodup (fun p hp => (mem_spanRow.1 hp).2.2) nodup_spanRow]
  simp only [mem_spanRow, and_true]

theorem pixelAfter_spanCol :
    pixelAfter (spanCol c u v md) = fun x y b => if x = c ∧ min u v ≤ y ∧ y ≤ max u v then applyBit md b else b := by
  funext x y b
  rw [pixelAfter_of_nodup (fun p hp => (mem_spanCol.1 hp).2.2) nodup_spanCol]
  simp only [mem_spanCol, and_true]

end

/-- Settles O16: the plots of the span are distinct and in one mode, so each of its pixels takes the mode once. -/
theorem drawRowDrawsTheInclusiveSpan : Obligations.DrawRowDrawsTheInclusiveSpan := by
  intro md s hwf hv
  rw [← pixelAfter_spanRow]
  exact State.draw_redrawn hwf hv _

/-- Settles O17: as for the row, with the plots of a column. -/
theorem drawColumnDrawsTheInclusiveSpan : Obligations.DrawColumnDrawsTheInclusiveSpan := by
  intro md s hwf hv
  rw [← pixelAfter_spanCol]
  exact State.draw_redrawn hwf hv _

end Sys2Proof.Machine
end

section
/-! The span family, the byte method (41 R122, 90 C1): a change of the framebuffer in one mode is given by the set of
columns it acts on, and the byte method and the span act on the same set. -/

namespace Sys2Proof.Machine

/-! ### Acting on a set of columns in one mode -/

/-- `m'` is `m` with the mode applied once at each column `(x, y)` of the region's rows that is in `D`, padding columns
too, and nothing else changed. -/
structure Geom.ActsOn (g : Geom) (md : Mode) (D : Nat → Nat → Prop) (m m' : Mem) : Prop where
  wf : Mem.wf m' = true
  outside : ∀ a, g.inRegion a = false → Mem.read m' a = Mem.read m a
  acted : ∀ x y, x < 8 * g.stride → y < g.h → D x y → g.pixel m' x y = applyBit md (g.pixel m x y)
  kept : ∀ x y, x < 8 * g.stride → y < g.h → ¬D x y → g.pixel m' x y = g.pixel m x y

section

variable {g : Geom} {md : Mode} {D E : Nat → Nat → Prop} {m m' m'' : Mem}

theorem Geom.pixel_eq_ofBool (g : Geom) (m : Mem) (x y : Nat) :
    g.pixel m x y = BitVec.ofBool ((g.byteAt m (g.index x y)).getLsbD (7 - x % 8)) := by
  apply BitVec.eq_of_getLsbD_eq
  intro i hi
  obtain rfl : i = 0 := by omega
  simp [Geom.pixel]

/-- Bit `j` of byte `i` of the region is the pixel of column `8 * (i mod S) + 7 - j` of row `i / S` (10 R21, R22). -/
theorem Geom.byteAt_eq_of_pixel {i : Nat} (hi : i < g.bytes)
    (h : ∀ x y, x < 8 * g.stride → y < g.h → g.pixel m x y = g.pixel m' x y) : g.byteAt m i = g.byteAt m' i := by
  have hS : 0 < g.stride := Nat.pos_of_mul_pos_right (Nat.zero_lt_of_lt hi)
  have hcol := Nat.mod_lt i hS
  have hrow : i / g.stride < g.h := Nat.div_lt_of_lt_mul hi
  apply BitVec.eq_of_getLsbD_eq
  intro j hj
  have hidx : g.index (8 * (i % g.stride) + (7 - j)) (i / g.stride) = i := by
    rw [Geom.index, show (8 * (i % g.stride) + (7 - j)) / 8 = i % g.stride by omega, Nat.div_add_mod']
  have hbit := h (8 * (i % g.stride) + (7 - j)) (i / g.stride) (by omega) hrow
  rwa [Geom.pixel_eq_ofBool, Geom.pixel_eq_ofBool, hidx, BitVec.ofBool_eq_iff_eq,
    show 7 - (8 * (i % g.stride) + (7 - j)) % 8 = j by omega] at hbit

theorem Geom.ActsOn.unique (h : g.ActsOn md D m m') (h' : g.ActsOn md D m m'') : m' = m'' := by
  refine Mem.ext_read h.wf h'.wf fun a => ?_
  cases ha : g.inRegion a with
  | false => rw [h.outside a ha, h'.outside a ha]
  | true =>
    refine (g.sameBytes_iff m' m'').1 (fun i hi => Geom.byteAt_eq_of_pixel hi fun x y hx hy => ?_) a ha
    by_cases hD : D x y
    · rw [h.acted x y hx hy hD, h'.acted x y hx hy hD]
    · rw [h.kept x y hx hy hD, h'.kept x y hx hy hD]

theorem Geom.ActsOn.congr (h : g.ActsOn md D m m') (hDE : ∀ x y, x < 8 * g.stride → y < g.h → (D x y ↔ E x y)) :
    g.ActsOn md E m m' :=
  ⟨h.wf, h.outside, fun x y hx hy hE => h.acted x y hx hy ((hDE x y hx hy).2 hE),
    fun x y hx hy hE => h.kept x y hx hy (mt (hDE x y hx hy).1 hE)⟩

theorem Geom.ActsOn.of_empty (hm : Mem.wf m = true) (hD : ∀ x y, x < 8 * g.stride → y < g.h → ¬D x y) :
    g.ActsOn md D m m :=
  ⟨hm, fun _ _ => rfl, fun x y hx hy h => absurd h (hD x y hx hy), fun _ _ _ _ _ => rfl⟩

theorem Geom.ActsOn.of_noOp (hm : Mem.wf m = true) : g.ActsOn .noOp D m m :=
  ⟨hm, fun _ _ => rfl, fun _ _ _ _ _ => rfl, fun _ _ _ _ _ => rfl⟩

theorem Geom.ActsOn.trans (h : g.ActsOn md D m m') (h' : g.ActsOn md E m' m'') (hDE : ∀ x y, D x y → ¬E x y) :
    g.ActsOn md (fun x y => D x y ∨ E x y) m m'' := by
  refine ⟨h'.wf, fun a ha => (h'.outside a ha).trans (h.outside a ha), fun x y hx hy hor => ?_, fun x y hx hy hor => ?_⟩
  · rcases hor with hD | hE
    · rw [h'.kept x y hx hy (hDE x y hD), h.acted x y hx hy hD]
    · rw [h'.acted x y hx hy hE, h.kept x y hx hy fun hD => hDE x y hD hE]
  · rw [not_or] at hor
    rw [h'.kept x y hx hy hor.2, h.kept x y hx hy hor.1]

/-! ### Distinct plots in one mode -/

theorem plotAll_actsOn (hm : Mem.wf m = true) (hg : g.Fits) {ps : List Plot} (h : ∀ p ∈ ps, p.mode = md)
    (hnd : ps.Nodup) : g.ActsOn md (fun x y => x < g.w ∧ ⟨x, y, md⟩ ∈ ps) m (plotAll g ps m) := by
  obtain ⟨hwf, hout, hpix, hpad⟩ := plotAll_spec hm hg ps
  refine ⟨hwf, hout, fun x y _ hy hD => ?_, fun x y hx hy hD => ?_⟩
  · rw [hpix x y hD.1 hy, pixelAfter_of_nodup h hnd, if_pos hD.2]
  · by_cases hw : x < g.w
    · rw [hpix x y hw hy, pixelAfter_of_nodup h hnd, if_neg fun hp => hD ⟨hw, hp⟩]
    · exact hpad x y (by omega) hx hy

/-- The columns of row `y` between `x0` and `x1`, both included and in either order, that are pixels (41 R120). -/
def Geom.RowSpan (g : Geom) (y x0 x1 : Int) (c r : Nat) : Prop :=
  (c : Int) < g.w ∧ (r : Int) = y ∧ min x0 x1 ≤ c ∧ c ≤ max x0 x1

theorem plotAll_spanRow_actsOn (hm : Mem.wf m = true) (hg : g.Fits) (y x0 x1 : Int) (md : Mode) :
    g.ActsOn md (g.RowSpan y x0 x1) m (plotAll g (spanRow y x0 x1 md) m) := by
  refine (plotAll_actsOn hm hg (fun p hp => (mem_spanRow.1 hp).2.2) nodup_spanRow).congr fun c r _ _ => ?_
  simp only [mem_spanRow, and_true, Geom.RowSpan, Int.ofNat_lt]

/-! ### Bytes under a mask (41 R122) -/

theorem ofBool_getLsbD_applyMode (md : Mode) (b k : Byte) {j : Nat} (hj : j < 8) :
    BitVec.ofBool ((applyMode md b k).getLsbD j) =
      if k.getLsbD j = true then applyBit md (BitVec.ofBool (b.getLsbD j)) else BitVec.ofBool (b.getLsbD j) := by
  cases md <;>
    simp only [applyMode, applyBit, BitVec.getLsbD_or, BitVec.getLsbD_and, BitVec.getLsbD_xor, BitVec.getLsbD_not, hj,
      decide_true, Bool.true_and]
  all_goals
    generalize b.getLsbD j = p, k.getLsbD j = q
    revert p q
    decide

theorem maskByte_actsOn (hm : Mem.wf m = true) (hg : g.Fits) {i : Nat} (hi : i < g.bytes) (md : Mode) (k : Byte) :
    g.ActsOn md (fun x y => g.index x y = i ∧ k.getLsbD (7 - x % 8) = true) m (maskByte g md k m i) := by
  have ha : g.base + i < 2 ^ 32 := by unfold Geom.Fits at hg; omega
  have hpix (x y : Nat) : g.pixel (maskByte g md k m i) x y =
      if g.index x y = i ∧ k.getLsbD (7 - x % 8) = true then applyBit md (g.pixel m x y) else g.pixel m x y := by
    rw [Geom.pixel_eq_ofBool, Geom.pixel_eq_ofBool, maskByte, Geom.byteAt_write hm ha]
    by_cases hidx : g.index x y = i
    · rw [if_pos hidx, ofBool_getLsbD_applyMode md _ k (by omega), hidx]
      simp only [true_and]
    · rw [if_neg hidx, if_neg fun h => hidx h.1]
  refine ⟨Mem.wf_write hm ha _, fun a hr => ?_, fun x y _ _ hD => (hpix x y).trans (if_pos hD),
    fun x y _ _ hD => (hpix x y).trans (if_neg hD)⟩
  rw [maskByte, Mem.read_write hm ha, if_neg]
  rintro rfl
  simp [(g.inRegion_iff _).2 ⟨Nat.le_add_right .., Nat.add_lt_add_left hi _⟩] at hr

/-- Whole bytes, one after the other. -/
theorem foldl_maskByte_actsOn (hm : Mem.wf m = true) (hg : g.Fits) (md : Mode) {s n : Nat} (h : s + n ≤ g.bytes) :
    g.ActsOn md (fun x y => s ≤ g.index x y ∧ g.index x y < s + n) m
      ((List.range' s n).foldl (maskByte g md 0xFF#8) m) := by
  induction n with
  | zero => exact .of_empty hm fun x y _ _ => by omega
  | succ n ih =>
    rw [List.range'_1_concat, List.foldl_concat]
    have hn := ih (by omega)
    have hlast := maskByte_actsOn hn.wf hg (i := s + n) (by omega) md 0xFF#8
    refine (hn.trans hlast fun x y h1 h2 => by omega).congr fun x y _ _ => ?_
    have hall : ∀ c < 8, (0xFF#8).getLsbD (7 - c) = true := by decide
    simp only [hall _ (Nat.mod_lt x (by omega)), and_true]
    omega

/-! ### The masks of the two ends (41 R122, 90 C1) -/

theorem leftMask_getLsbD (a x : Nat) : (0xFF#8 >>> (a % 8)).getLsbD (7 - x % 8) = decide (a % 8 ≤ x % 8) := by
  have h : ∀ i < 8, ∀ j < 8, (0xFF#8 >>> i).getLsbD (7 - j) = decide (i ≤ j) := by decide
  exact h _ (Nat.mod_lt _ (by omega)) _ (Nat.mod_lt _ (by omega))

theorem rightMask_getLsbD (b x : Nat) : (~~~(0x7F#8 >>> (b % 8))).getLsbD (7 - x % 8) = decide (x % 8 ≤ b % 8) := by
  have h : ∀ i < 8, ∀ j < 8, (~~~(0x7F#8 >>> i)).getLsbD (7 - j) = decide (j ≤ i) := by decide
  exact h _ (Nat.mod_lt _ (by omega)) _ (Nat.mod_lt _ (by omega))

/-! ### The byte method on one row -/

variable {a b y : Nat}

theorem Geom.index_div_stride {x : Nat} (hx : x < 8 * g.stride) (r : Nat) : g.index x r / g.stride = r := by
  have hpos : 0 < g.stride := by omega
  rw [Geom.index, Nat.mul_comm, Nat.mul_add_div hpos, Nat.div_eq_of_lt (by omega), Nat.add_zero]

/-- A byte between two bytes of a row is in that row. -/
theorem Geom.row_eq_of_index_between {x r : Nat} (ha : a < 8 * g.stride) (hb : b < 8 * g.stride) (hx : x < 8 * g.stride)
    (h1 : g.index a y ≤ g.index x r) (h2 : g.index x r ≤ g.index b y) : r = y := by
  have h1 := Nat.div_le_div_right (c := g.stride) h1
  have h2 := Nat.div_le_div_right (c := g.stride) h2
  rw [Geom.index_div_stride ha, Geom.index_div_stride hx] at h1
  rw [Geom.index_div_stride hx, Geom.index_div_stride hb] at h2
  exact Nat.le_antisymm h2 h1

/-- Both ends of the span in one byte: the two masks combined. -/
theorem maskByte_inOneByte_actsOn (hm : Mem.wf m = true) (hg : g.Fits) (ha : a < 8 * g.stride) (hb : b < 8 * g.stride)
    (hy : y < g.h) (md : Mode) (hab : g.index a y = g.index b y) :
    g.ActsOn md (fun x r => r = y ∧ a ≤ x ∧ x ≤ b) m
      (maskByte g md (0xFF#8 >>> (a % 8) &&& ~~~(0x7F#8 >>> (b % 8))) m (g.index a y)) := by
  refine (maskByte_actsOn hm hg (g.index_lt ha hy) md _).congr fun x r hx hr => ?_
  rw [BitVec.getLsbD_and, leftMask_getLsbD, rightMask_getLsbD, Bool.and_eq_true, decide_eq_true_eq, decide_eq_true_eq]
  have hrow := Geom.row_eq_of_index_between (g := g) (r := r) (y := y) ha hb hx
  by_cases hr : r = y
  · subst r
    unfold Geom.index at hab ⊢
    omega
  · omega

/-- The ends of the span in two bytes: the left mask, the whole bytes between, the right mask. -/
theorem maskBytes_acrossRow_actsOn (hm : Mem.wf m = true) (hg : g.Fits) (hle : a ≤ b) (hb : b < 8 * g.stride)
    (hy : y < g.h) (md : Mode) (hab : g.index a y ≠ g.index b y) :
    g.ActsOn md (fun x r => r = y ∧ a ≤ x ∧ x ≤ b) m
      (maskByte g md (~~~(0x7F#8 >>> (b % 8)))
        ((List.range' (g.index a y + 1) (g.index b y - g.index a y - 1)).foldl (maskByte g md 0xFF#8)
          (maskByte g md (0xFF#8 >>> (a % 8)) m (g.index a y)))
        (g.index b y)) := by
  have ha : a < 8 * g.stride := by omega
  have hlt : g.index a y < g.index b y := by
    unfold Geom.index at hab ⊢
    omega
  have hib := g.index_lt hb hy
  have hleft := maskByte_actsOn hm hg (g.index_lt ha hy) md (0xFF#8 >>> (a % 8))
  have hmid := foldl_maskByte_actsOn hleft.wf hg md (s := g.index a y + 1) (n := g.index b y - g.index a y - 1)
    (by omega)
  have hright := maskByte_actsOn hmid.wf hg hib md (~~~(0x7F#8 >>> (b % 8)))
  refine ((hleft.trans hmid fun x r h1 h2 => by omega).trans hright fun x r h1 h2 => by omega).congr
    fun x r hx hr => ?_
  rw [leftMask_getLsbD, rightMask_getLsbD, decide_eq_true_eq, decide_eq_true_eq]
  have hrow := Geom.row_eq_of_index_between (g := g) (r := r) (y := y) ha hb hx
  by_cases hr : r = y
  · subst r
    unfold Geom.index at hab hlt ⊢
    omega
  · omega

end

theorem rowByBytes_actsOn {g : Geom} {m : Mem} (hm : Mem.wf m = true) (hg : g.Fits) (y x0 x1 : Int) (md : Mode) :
    g.ActsOn md (g.RowSpan y x0 x1) m (rowByBytes g y x0 x1 md m) := by
  have hw := g.w_le
  unfold rowByBytes
  extract_lets a b lmask rmask ia ib
  split
  · next hout =>
    rw [← or_assoc, ← or_assoc] at hout
    rcases hout with h | rfl
    · refine .of_empty hm fun c r _ hr => ?_
      unfold Geom.RowSpan
      omega
    · exact .of_noOp hm
  · next hin =>
    simp only [not_or, not_lt, not_le] at hin
    obtain ⟨hy0, hyh, hab, -⟩ := hin
    have hspan (c r : Nat) : (r = y.toNat ∧ a.toNat ≤ c ∧ c ≤ b.toNat) ↔ g.RowSpan y x0 x1 c r := by
      unfold Geom.RowSpan
      omega
    split
    · next heq =>
      exact (maskByte_inOneByte_actsOn hm hg (by omega) (by omega) (by omega) md heq).congr fun c r _ _ => hspan c r
    · next hne =>
      exact (maskBytes_acrossRow_actsOn hm hg (by omega) (by omega) (by omega) md hne).congr fun c r _ _ => hspan c r

/-- Settles O56: both act on the in-range columns of the span, once each. -/
theorem rowByteMethodEqualsSpan : Obligations.RowByteMethodEqualsSpan := by
  intro g m y x0 x1 md hm hg
  exact (rowByBytes_actsOn hm hg y x0 x1 md).unique (plotAll_spanRow_actsOn hm hg y x0 x1 md)

end Sys2Proof.Machine
end

section
/-! The raster family, lines (42 R140 to R143): the line loop in closed form, by the columns and rows covered after each
pass, and from it the points of a line and how often each takes the mode. -/

namespace Sys2Proof.Machine

/-! ### The columns and rows covered (42 R140) -/

/-- The error of the line loop `c.1` columns and `c.2` rows from the start. -/
def lineError (dx dy : Int) (c : Nat × Nat) : Int := (c.2 + 1) * dx - (c.1 + 1) * dy

/-- The columns and rows covered after `k` passes of the line loop. -/
def lineCounts (dx dy : Int) : Nat → Nat × Nat
  | 0 => (0, 0)
  | k + 1 =>
    let c := lineCounts dx dy k
    (c.1 + if -dy < 2 * lineError dx dy c then 1 else 0, c.2 + if 2 * lineError dx dy c < dx then 1 else 0)

theorem lineCounts_succ (dx dy : Int) (k : Nat) :
    lineCounts dx dy (k + 1) =
      ((lineCounts dx dy k).1 + if -dy < 2 * lineError dx dy (lineCounts dx dy k) then 1 else 0,
       (lineCounts dx dy k).2 + if 2 * lineError dx dy (lineCounts dx dy k) < dx then 1 else 0) := rfl

theorem lineError_add_ite (dx dy : Int) (c : Nat × Nat) (P Q : Prop) [Decidable P] [Decidable Q] :
    lineError dx dy (c.1 + if P then 1 else 0, c.2 + if Q then 1 else 0) =
      lineError dx dy c - (if P then dy else 0) + if Q then dx else 0 := by
  unfold lineError
  split <;> split <;> push_cast <;> ring

theorem lineError_swap (dx dy : Int) (c : Nat × Nat) : lineError dy dx c.swap = -lineError dx dy c := by
  simp only [lineError, Prod.fst_swap, Prod.snd_swap]
  ring

/-- Columns and rows play the same part. -/
theorem lineCounts_swap (dx dy : Int) (k : Nat) : lineCounts dy dx k = (lineCounts dx dy k).swap := by
  induction k with
  | zero => rfl
  | succ k ih =>
    have hcol (e : Int) : -dx < 2 * -e ↔ 2 * e < dx := by omega
    have hrow (e : Int) : 2 * -e < dy ↔ -dy < 2 * e := by omega
    rw [lineCounts_succ, ih, lineError_swap, lineCounts_succ]
    simp only [hcol, hrow, Prod.fst_swap, Prod.snd_swap, Prod.swap_prod_mk]

/-- Within half of `d` the only multiple of `d` is 0. -/
theorem eq_zero_of_double_mul_le {m d : Int} (hd : 0 < d) (hlo : -d ≤ 2 * (m * d)) (hhi : 2 * (m * d) ≤ d) : m = 0 := by
  by_contra hm
  rcases lt_or_gt_of_ne hm with h | h
  · nlinarith
  · nlinarith

/-- On a line at least as wide as high, every pass covers a column, and the rows covered stay within half a row of the
straight line. -/
theorem lineCounts_wide {dx dy : Int} (hdx : 0 < dx) (hdy : 0 ≤ dy) (hle : dy ≤ dx) (k : Nat) :
    (lineCounts dx dy k).1 = k ∧ -dx ≤ 2 * ((lineCounts dx dy k).2 * dx - k * dy) ∧
      2 * ((lineCounts dx dy k).2 * dx - k * dy) ≤ dx := by
  induction k with
  | zero =>
    simp only [lineCounts, Nat.cast_zero, zero_mul, sub_zero, mul_zero, true_and]
    omega
  | succ k ih =>
    obtain ⟨hcol, hlo, hhi⟩ := ih
    rw [lineCounts_succ]
    generalize lineCounts dx dy k = c at *
    obtain ⟨a, b⟩ := c
    obtain rfl : a = k := hcol
    have herr : lineError dx dy (a, b) = (b * dx - a * dy) + dx - dy := by
      simp only [lineError]
      ring
    have hstep : -dy < 2 * lineError dx dy (a, b) := by
      rw [herr]
      simp only at hlo hhi
      obtain rfl | hlt := hle.eq_or_lt
      · have hdrift : (b : Int) * dy - a * dy = (b - a) * dy := by ring
        rw [hdrift] at hlo hhi ⊢
        rw [eq_zero_of_double_mul_le hdx hlo hhi]
        omega
      · omega
    rw [if_pos hstep]
    refine ⟨rfl, ?_⟩
    rw [herr]
    simp only
    split <;> push_cast <;> constructor <;> linarith

theorem lineCounts_wide_end {dx dy : Int} (hdy : 0 ≤ dy) (hle : dy ≤ dx) :
    lineCounts dx dy dx.toNat = (dx.toNat, dy.toNat) := by
  obtain rfl | hdx := (hdy.trans hle).eq_or_lt
  · obtain rfl := le_antisymm hle hdy
    rfl
  · obtain ⟨hcol, hlo, hhi⟩ := lineCounts_wide hdx hdy hle dx.toNat
    have hdrift : ((lineCounts dx dy dx.toNat).2 : Int) * dx - dx.toNat * dy =
        ((lineCounts dx dy dx.toNat).2 - dy) * dx := by
      rw [Int.toNat_of_nonneg hdx.le]
      ring
    rw [hdrift] at hlo hhi
    have hrow := eq_zero_of_double_mul_le hdx hlo hhi
    exact Prod.ext hcol (by omega)

section

variable {dx dy : Int} (hdx : 0 ≤ dx) (hdy : 0 ≤ dy)
include hdx hdy

theorem lineCounts_injective (hpos : 0 < max dx dy) : Function.Injective (lineCounts dx dy) := by
  intro k l h
  rcases le_total dy dx with hle | hle
  · rw [max_eq_left hle] at hpos
    rw [← (lineCounts_wide hpos hdy hle k).1, h, (lineCounts_wide hpos hdy hle l).1]
  · rw [max_eq_right hle] at hpos
    rw [← (lineCounts_wide hpos hdx hle k).1, lineCounts_swap, h, ← lineCounts_swap, (lineCounts_wide hpos hdx hle l).1]

/-- After as many passes as the longer side has steps, both sides are covered. -/
theorem lineCounts_end : lineCounts dx dy (max dx dy).toNat = (dx.toNat, dy.toNat) := by
  rcases le_total dy dx with hle | hle
  · rw [max_eq_left hle, lineCounts_wide_end hdy hle]
  · rw [max_eq_right hle, lineCounts_swap, lineCounts_wide_end hdx hle]
    rfl

theorem lineCounts_eq_end_iff {k : Nat} (hk : k ≤ (max dx dy).toNat) :
    lineCounts dx dy k = (dx.toNat, dy.toNat) ↔ k = (max dx dy).toNat := by
  refine ⟨fun h => ?_, fun h => h ▸ lineCounts_end hdx hdy⟩
  obtain hzero | hpos := Nat.eq_zero_or_pos (max dx dy).toNat
  · omega
  · exact lineCounts_injective hdx hdy (by omega) (h.trans (lineCounts_end hdx hdy).symm)

end

/-! ### One coordinate of a line -/

/-- The coordinate `n` steps from `c0` in the direction of `c1`. -/
def stepsToward (c0 c1 : Int) (n : Nat) : Int := c0 + (if c0 < c1 then 1 else -1) * n

theorem stepsToward_zero (c0 c1 : Int) : stepsToward c0 c1 0 = c0 := by simp [stepsToward]

theorem stepsToward_add_ite (c0 c1 : Int) (n : Nat) (P : Prop) [Decidable P] :
    stepsToward c0 c1 (n + if P then 1 else 0) =
      stepsToward c0 c1 n + if P then (if c0 < c1 then 1 else -1) else 0 := by
  unfold stepsToward
  by_cases hP : P
  · rw [if_pos hP, if_pos hP]
    push_cast
    ring
  · rw [if_neg hP, if_neg hP, Nat.add_zero, add_zero]

theorem stepsToward_inj {c0 c1 : Int} {n n' : Nat} : stepsToward c0 c1 n = stepsToward c0 c1 n' ↔ n = n' := by
  unfold stepsToward
  split <;> omega

theorem abs_stepsToward_sub (c0 c1 : Int) (n : Nat) : |stepsToward c0 c1 n - c0| = n := by
  rw [stepsToward, add_sub_cancel_left, abs_mul, Nat.abs_cast]
  split <;> simp

theorem stepsToward_end (c0 c1 : Int) : stepsToward c0 c1 |c1 - c0|.toNat = c1 := by
  rw [stepsToward, Int.toNat_of_nonneg (abs_nonneg _)]
  split
  · rw [abs_of_pos (by omega)]
    ring
  · rw [abs_of_nonpos (by omega)]
    ring

/-! ### The line loop in closed form (42 R140, R142) -/

/-- Both comparisons of one advance, and what each adds. -/
theorem lineAdvance_eq (p : LineParams) (v : LineVars) :
    lineAdvance p v =
      { x := v.x + if -p.dy < 2 * v.err then p.sx else 0
        y := v.y + if 2 * v.err < p.dx then p.sy else 0
        err := v.err - (if -p.dy < 2 * v.err then p.dy else 0) + if 2 * v.err < p.dx then p.dx else 0 } := by
  unfold lineAdvance
  by_cases hx : -p.dy < 2 * v.err <;> by_cases hy : 2 * v.err < p.dx <;> simp [hx, hy]

section

variable (x0 y0 x1 y1 : Int)

/-- The columns and rows of a line covered after `k` passes. -/
def lineCover (k : Nat) : Nat × Nat := lineCounts |x1 - x0| |y1 - y0| k

/-- The variables of the line loop after `k` passes. -/
def lineAt (k : Nat) : LineVars where
  x := stepsToward x0 x1 (lineCover x0 y0 x1 y1 k).1
  y := stepsToward y0 y1 (lineCover x0 y0 x1 y1 k).2
  err := lineError |x1 - x0| |y1 - y0| (lineCover x0 y0 x1 y1 k)

/-- The point plotted by pass `k`. -/
def linePointAt (k : Nat) : Int × Int := ((lineAt x0 y0 x1 y1 k).x, (lineAt x0 y0 x1 y1 k).y)

/-- The number of advances of the line loop, `max(dx, dy)` (42 R142). -/
def lineSteps : Nat := (max |x1 - x0| |y1 - y0|).toNat

theorem lineStart_eq_lineAt : (⟨x0, y0, |x1 - x0| - |y1 - y0|⟩ : LineVars) = lineAt x0 y0 x1 y1 0 := by
  simp [lineAt, lineCover, lineCounts, lineError, stepsToward_zero]

theorem lineCover_succ (k : Nat) :
    lineCover x0 y0 x1 y1 (k + 1) =
      ((lineCover x0 y0 x1 y1 k).1 + if -|y1 - y0| < 2 * (lineAt x0 y0 x1 y1 k).err then 1 else 0,
       (lineCover x0 y0 x1 y1 k).2 + if 2 * (lineAt x0 y0 x1 y1 k).err < |x1 - x0| then 1 else 0) := rfl

theorem lineAdvance_lineAt (k : Nat) :
    lineAdvance (lineParams x0 y0 x1 y1) (lineAt x0 y0 x1 y1 k) = lineAt x0 y0 x1 y1 (k + 1) := by
  conv_rhs => rw [lineAt, lineCover_succ]
  rw [lineAdvance_eq, stepsToward_add_ite, stepsToward_add_ite, lineError_add_ite]
  rfl

theorem linePointAt_inj {k l : Nat} :
    linePointAt x0 y0 x1 y1 k = linePointAt x0 y0 x1 y1 l ↔ lineCover x0 y0 x1 y1 k = lineCover x0 y0 x1 y1 l := by
  simp only [linePointAt, lineAt, Prod.ext_iff, stepsToward_inj]

theorem lineCover_end : lineCover x0 y0 x1 y1 (lineSteps x0 y0 x1 y1) = (|x1 - x0|.toNat, |y1 - y0|.toNat) :=
  lineCounts_end (abs_nonneg _) (abs_nonneg _)

theorem linePointAt_zero : linePointAt x0 y0 x1 y1 0 = (x0, y0) := by
  rw [linePointAt, ← lineStart_eq_lineAt]

theorem linePointAt_end : linePointAt x0 y0 x1 y1 (lineSteps x0 y0 x1 y1) = (x1, y1) := by
  simp only [linePointAt, lineAt, lineCover_end, stepsToward_end]

theorem linePointAt_eq_end_iff {k : Nat} (hk : k ≤ lineSteps x0 y0 x1 y1) :
    linePointAt x0 y0 x1 y1 k = (x1, y1) ↔ k = lineSteps x0 y0 x1 y1 := by
  rw [← linePointAt_end x0 y0 x1 y1, linePointAt_inj, lineCover_end]
  exact lineCounts_eq_end_iff (abs_nonneg _) (abs_nonneg _) hk

/-- The loop from pass `k` on makes the passes up to the one that plots the terminal endpoint. -/
theorem lineLoop_lineAt {n j k : Nat} (hk : k + j = lineSteps x0 y0 x1 y1) (hn : j + 1 ≤ n) :
    lineLoop (lineParams x0 y0 x1 y1) n (lineAt x0 y0 x1 y1 k) =
      (List.range' k (j + 1)).map (linePointAt x0 y0 x1 y1) := by
  induction j generalizing k n with
  | zero =>
    cases n with
    | zero => omega
    | succ n =>
      have hend := (linePointAt_eq_end_iff x0 y0 x1 y1 (k := k) (by omega)).2 hk
      rw [lineLoop]
      exact congrArg _ (if_pos (Prod.ext_iff.1 hend))
  | succ j ih =>
    cases n with
    | zero => omega
    | succ n =>
      have hend : linePointAt x0 y0 x1 y1 k ≠ (x1, y1) := fun h =>
        absurd ((linePointAt_eq_end_iff x0 y0 x1 y1 (by omega)).1 h) (by omega)
      rw [lineLoop, lineAdvance_lineAt, ih (by omega) (by omega)]
      exact congrArg _ (if_neg (mt Prod.ext_iff.2 hend))

/-- Any allowance of passes from `linePasses` up gives the points of the passes `0 .. max(dx, dy)`. -/
theorem lineLoop_start {n : Nat} (hn : linePasses (lineParams x0 y0 x1 y1) ≤ n) :
    lineLoop (lineParams x0 y0 x1 y1) n ⟨x0, y0, |x1 - x0| - |y1 - y0|⟩ =
      (List.range (lineSteps x0 y0 x1 y1 + 1)).map (linePointAt x0 y0 x1 y1) := by
  rw [lineStart_eq_lineAt, lineLoop_lineAt x0 y0 x1 y1 (Nat.zero_add _) hn, List.range_eq_range']

theorem linePoints_eq :
    linePoints x0 y0 x1 y1 = (List.range (lineSteps x0 y0 x1 y1 + 1)).map (linePointAt x0 y0 x1 y1) :=
  lineLoop_start x0 y0 x1 y1 (le_refl _)

theorem linePointAt_swap (k : Nat) : linePointAt x0 y0 x1 y1 k = (linePointAt y0 x0 y1 x1 k).swap := by
  simp only [linePointAt, lineAt, lineCover, lineCounts_swap |y1 - y0| |x1 - x0|]
  rfl

theorem linePoints_swap : linePoints x0 y0 x1 y1 = (linePoints y0 x0 y1 x1).map Prod.swap := by
  rw [linePoints_eq, linePoints_eq, List.map_map, lineSteps, max_comm, ← lineSteps]
  exact List.map_congr_left fun k _ => linePointAt_swap x0 y0 x1 y1 k

theorem nodup_linePoints : (linePoints x0 y0 x1 y1).Nodup := by
  rw [linePoints_eq]
  refine List.Nodup.map_on (fun k hk l hl h => ?_) List.nodup_range
  rw [linePointAt_inj] at h
  rw [List.mem_range] at hk hl
  obtain hzero | hpos := Nat.eq_zero_or_pos (lineSteps x0 y0 x1 y1)
  · omega
  · exact lineCounts_injective (abs_nonneg _) (abs_nonneg _) (Int.lt_toNat.1 hpos) h

theorem end_mem_linePoints : (x1, y1) ∈ linePoints x0 y0 x1 y1 := by
  rw [linePoints_eq, ← linePointAt_end x0 y0 x1 y1]
  exact List.mem_map_of_mem List.self_mem_range_succ

/-- Consecutive points of a line are those of consecutive passes. -/
theorem isChain_linePoints {R : Int × Int → Int × Int → Prop}
    (h : ∀ k, R (linePointAt x0 y0 x1 y1 k) (linePointAt x0 y0 x1 y1 (k + 1))) :
    (linePoints x0 y0 x1 y1).IsChain R := by
  rw [linePoints_eq, List.isChain_map, List.isChain_range_succ]
  exact fun k _ => h k

/-- The point of a pass from the one before, by the error at its distance from the start. -/
theorem linePointAt_succ (k : Nat) :
    let p := linePointAt x0 y0 x1 y1 k
    let e2 := 2 * ((|p.2 - y0| + 1) * |x1 - x0| - (|p.1 - x0| + 1) * |y1 - y0|)
    (linePointAt x0 y0 x1 y1 (k + 1)).1 = p.1 + (if -|y1 - y0| < e2 then if x0 < x1 then 1 else -1 else 0) ∧
    (linePointAt x0 y0 x1 y1 (k + 1)).2 = p.2 + (if e2 < |x1 - x0| then if y0 < y1 then 1 else -1 else 0) := by
  have herr : 2 * (lineAt x0 y0 x1 y1 k).err =
      2 * ((|(linePointAt x0 y0 x1 y1 k).2 - y0| + 1) * |x1 - x0| -
        (|(linePointAt x0 y0 x1 y1 k).1 - x0| + 1) * |y1 - y0|) := by
    simp only [linePointAt, lineAt, abs_stepsToward_sub]
    rfl
  have hadvance := (lineAdvance_lineAt x0 y0 x1 y1 k).symm.trans (lineAdvance_eq ..)
  intro p e2
  rw [show e2 = _ from herr.symm]
  exact ⟨congrArg LineVars.x hadvance, congrArg LineVars.y hadvance⟩

end

/-- A coordinate moves by at most 1. -/
theorem abs_add_ite_sub_le (c d0 d1 : Int) (P : Prop) [Decidable P] :
    |c + (if P then if d0 < d1 then 1 else -1 else 0) - c| ≤ 1 := by
  rw [add_sub_cancel_left]
  split
  · split <;> simp
  · simp

theorem linePoints_coincident (x0 y0 : Int) : linePoints x0 y0 x0 y0 = [(x0, y0)] := by
  simp [linePoints, lineParams, linePasses, lineLoop]

/-- The plots of a line: its terminal endpoint, unless the endpoints coincide, and then its points (42 R140, R143). -/
theorem line_eq (x0 y0 x1 y1 : Int) (m : Mode) :
    line x0 y0 x1 y1 m =
      (if x0 = x1 ∧ y0 = y1 then [] else [⟨x1, y1, m⟩]) ++ (linePoints x0 y0 x1 y1).map fun q => ⟨q.1, q.2, m⟩ := by
  unfold line
  split
  · next h =>
    obtain ⟨rfl, rfl⟩ := h
    rw [linePoints_coincident]
    rfl
  · rfl

/-- Settles O18: the points are those of the passes `0 .. max(dx, dy)`, and only the last of these is the endpoint. -/
theorem lineLoopEndsAtTheEndpoint : Obligations.LineLoopEndsAtTheEndpoint := by
  intro x0 y0 x1 y1
  have hlen : (linePoints x0 y0 x1 y1).length = lineSteps x0 y0 x1 y1 + 1 := by
    rw [linePoints_eq, List.length_map, List.length_range]
  refine ⟨fun hne => ⟨hlen, fun n hn => ?_, nodup_linePoints .., ?_, ?_, ?_, fun m => ?_⟩, fun hx hy m => ?_⟩
  · rw [lineLoop_start x0 y0 x1 y1 hn, linePoints_eq]
  · refine isChain_linePoints x0 y0 x1 y1 fun k => ?_
    obtain ⟨hx, hy⟩ := linePointAt_succ x0 y0 x1 y1 k
    rw [hx, hy]
    exact ⟨abs_add_ite_sub_le .., abs_add_ite_sub_le ..⟩
  · rw [linePoints_eq, List.head?_map, List.range_succ_eq_map]
    exact congrArg some (linePointAt_zero x0 y0 x1 y1)
  · rw [linePoints_eq, List.getLast?_map, List.range_succ, List.getLast?_concat]
    exact congrArg some (linePointAt_end x0 y0 x1 y1)
  · rw [line, if_neg hne, List.length_cons, List.length_map, hlen]
    rfl
  · rw [line, if_pos ⟨hx, hy⟩, List.length_singleton]

/-- A plot of a line is listed once for its point, and once more if that is the terminal endpoint of a line with
distinct endpoints. -/
theorem count_line (x0 y0 x1 y1 : Int) (m : Mode) (x y : Int) :
    (line x0 y0 x1 y1 m).count ⟨x, y, m⟩ =
      if (x, y) ∈ linePoints x0 y0 x1 y1 then if ¬(x0 = x1 ∧ y0 = y1) ∧ x = x1 ∧ y = y1 then 2 else 1 else 0 := by
  have hinj : Function.Injective fun q : Int × Int => (⟨q.1, q.2, m⟩ : Plot) := fun _ _ h =>
    Prod.ext (congrArg Plot.x h) (congrArg Plot.y h)
  have hpoints := List.count_map_of_injective (linePoints x0 y0 x1 y1) _ hinj (x, y)
  rw [(nodup_linePoints x0 y0 x1 y1).count] at hpoints
  rw [line_eq, List.count_append, hpoints]
  by_cases hco : x0 = x1 ∧ y0 = y1
  · simp [hco]
  · by_cases hend : x = x1 ∧ y = y1
    · obtain ⟨rfl, rfl⟩ := hend
      simp [hco, end_mem_linePoints]
    · simp [hco, hend, eq_comm (b := x), eq_comm (b := y)]

theorem mode_of_mem_line {x0 y0 x1 y1 : Int} {m : Mode} {p : Plot} (h : p ∈ line x0 y0 x1 y1 m) : p.mode = m := by
  rw [line_eq, List.mem_append, List.mem_map] at h
  obtain h | ⟨q, -, rfl⟩ := h
  · split at h
    · cases h
    · rw [List.mem_singleton.1 h]
  · rfl

/-- What the plots of a line do to a pixel (42 R143). -/
theorem pixelAfter_line (x0 y0 x1 y1 : Int) (m : Mode) :
    pixelAfter (line x0 y0 x1 y1 m) = fun x y b =>
      if x0 = x1 ∧ y0 = y1 then if x = x0 ∧ y = y0 then applyBit m b else b
      else if x = x1 ∧ y = y1 then applyBit m (applyBit m b)
      else if (x, y) ∈ linePoints x0 y0 x1 y1 then applyBit m b
      else b := by
  funext x y b
  rw [pixelAfter_eq_iterate fun _ => mode_of_mem_line, count_line]
  by_cases hco : x0 = x1 ∧ y0 = y1
  · obtain ⟨rfl, rfl⟩ := hco
    by_cases hp : x = x0 ∧ y = y0 <;> simp [linePoints_coincident, hp]
  · by_cases hend : x = x1 ∧ y = y1
    · obtain ⟨rfl, rfl⟩ := hend
      simp [hco, end_mem_linePoints]
    · by_cases hp : (x, y) ∈ linePoints x0 y0 x1 y1 <;> simp [hco, hend, hp]

/-- Settles O19: each point comes from the one before by its error, and the command draws the plots of the line, in
which each point is listed once and the terminal endpoint twice. -/
theorem drawLineTogglesItsEndpointTwice : Obligations.DrawLineTogglesItsEndpointTwice := by
  refine ⟨fun x0 y0 x1 y1 => isChain_linePoints x0 y0 x1 y1 (linePointAt_succ x0 y0 x1 y1), fun m s hwf hv => ?_⟩
  have h := State.draw_redrawn hwf hv (line s.act.coord0 s.act.coord1 s.act.coord2 s.act.coord3 m)
  rwa [pixelAfter_line] at h

end Sys2Proof.Machine
end

section
/-! The raster family, circles (42 R144 to R148): the bound on the passes of the circle loop, and the outlines of radius
0 and 1. -/

namespace Sys2Proof.Machine

/-! ### The passes of the circle loop (42 R148) -/

theorem circleAdvance_x (v : CircleVars) : (circleAdvance v).x = v.x + 1 := by
  unfold circleAdvance
  split <;> rfl

theorem circleAdvance_y_le (v : CircleVars) : (circleAdvance v).y ≤ v.y := by
  unfold circleAdvance
  split
  · exact Int.sub_le_self _ Int.one_nonneg
  · exact le_refl _

theorem circleLoop_of_stop {v : CircleVars} (h : v.y ≤ v.x + 1) (n : Nat) : circleLoop n v = [] := by
  cases n with
  | zero => rfl
  | succ n => exact if_neg (not_lt.2 h)

/-- Passes allowed beyond the gap between `x + 1` and `y` change nothing, as each pass narrows it. -/
theorem circleLoop_eq_of_le {k n : Nat} {v : CircleVars} (hgap : v.y ≤ v.x + 1 + k) (hkn : k ≤ n) :
    circleLoop n v = circleLoop k v := by
  induction k generalizing n v with
  | zero => exact circleLoop_of_stop (by omega) n
  | succ k ih =>
    obtain ⟨n, rfl⟩ := Nat.exists_eq_add_of_le' hkn
    have hx := circleAdvance_x v
    have hy := circleAdvance_y_le v
    rw [← Nat.add_assoc, circleLoop, circleLoop, ih (by omega) (by omega)]

theorem circleLoop_length_le (k : Nat) (v : CircleVars) : (circleLoop k v).length ≤ k := by
  induction k generalizing v with
  | zero => exact le_refl _
  | succ k ih =>
    rw [circleLoop]
    split
    · exact Nat.succ_le_succ (ih _)
    · exact Nat.zero_le _

theorem circlePasses_eq_nil_iff (r : Nat) : circlePasses r = [] ↔ r ≤ 1 := by
  constructor
  · intro h
    by_contra hr
    obtain ⟨r, rfl⟩ := Nat.exists_eq_add_of_le' (not_le.1 hr)
    have hpass : (circleStart (r + 2 : Nat)).x + 1 < (circleStart (r + 2 : Nat)).y := by
      simp only [circleStart]
      omega
    rw [circlePasses, circleLoop, if_pos hpass] at h
    cases h
  · intro hr
    exact circleLoop_of_stop (by simp only [circleStart]; omega) r

/-- The row spans of one pass with a fill, each as its row and the two ends of its columns. -/
def passSpans (cx cy : Int) (before after : CircleVars) : List (Int × Int × Int) :=
  (if after.y ≠ before.y then
    [(cy + after.y, cx - after.x, cx + after.x), (cy - after.y, cx - after.x, cx + after.x)]
   else []) ++
  (if after.x ≠ before.x then
    [(cy + after.x, cx - after.y, cx + after.y), (cy - after.x, cx - after.y, cx + after.y)]
   else [])

theorem passSpans_length_le (cx cy : Int) (before after : CircleVars) : (passSpans cx cy before after).length ≤ 4 := by
  unfold passSpans
  split <;> split <;> simp

theorem circleSpans_eq_flatMap (cx cy : Int) (before after : CircleVars) (fm : Mode) :
    circleSpans cx cy before after fm =
      (passSpans cx cy before after).flatMap fun q => spanRow q.1 q.2.1 q.2.2 fm := by
  rw [circleSpans, passSpans, List.flatMap_append]
  congr 1 <;> split <;> simp

/-- Settles O20: `x` starts at 0 and grows by 1 in each pass, and `y` never exceeds `r`. -/
theorem circleLoopMakesAtMostRadiusPasses : Obligations.CircleLoopMakesAtMostRadiusPasses := by
  refine ⟨fun r => ⟨circleLoop_length_le r _, fun n hn => ?_, circlePasses_eq_nil_iff r⟩, fun _ _ _ _ _ => rfl,
    fun cx cy before after fm => ⟨_, passSpans_length_le cx cy before after, circleSpans_eq_flatMap ..⟩⟩
  exact circleLoop_eq_of_le (by simp only [circleStart]; omega) hn

/-! ### Outlines of radius 0 and 1 (42 R145) -/

theorem circle_outline_of_le_one {r : Nat} (hr : r ≤ 1) (cx cy : Int) (m : Mode) :
    circle cx cy r m none = cardinalPoints cx cy r m := by
  rw [circle, (circlePasses_eq_nil_iff r).2 hr, List.flatMap_nil, List.append_nil]

theorem pixelAfter_cardinalPoints_zero (cx cy : Int) (m : Mode) :
    pixelAfter (cardinalPoints cx cy 0 m) = fun x y b => if m ≠ .invert ∧ x = cx ∧ y = cy then applyBit m b else b := by
  funext x y b
  simp only [cardinalPoints, add_zero, sub_zero]
  by_cases hp : cx = x ∧ cy = y
  · obtain ⟨rfl, rfl⟩ := hp
    cases m <;> simp [pixelAfter, applyBit]
  · simp [pixelAfter, hp, eq_comm (a := x), eq_comm (a := y)]

theorem nodup_cardinalPoints {r : Int} (hr : 0 < r) (cx cy : Int) (m : Mode) : (cardinalPoints cx cy r m).Nodup := by
  simp only [cardinalPoints, List.nodup_cons, List.mem_cons, List.not_mem_nil, Plot.mk.injEq, or_false, and_true,
    true_and, List.nodup_nil, not_false_eq_true]
  omega

theorem mem_cardinalPoints_one {cx cy x y : Int} {m : Mode} :
    (⟨x, y, m⟩ : Plot) ∈ cardinalPoints cx cy 1 m ↔ |x - cx| + |y - cy| = 1 := by
  simp only [cardinalPoints, List.mem_cons, List.not_mem_nil, Plot.mk.injEq, or_false, and_true]
  rcases abs_cases (x - cx) with ⟨hx, _⟩ | ⟨hx, _⟩ <;> rcases abs_cases (y - cy) with ⟨hy, _⟩ | ⟨hy, _⟩ <;>
    rw [hx, hy] <;> omega

theorem pixelAfter_cardinalPoints_one (cx cy : Int) (m : Mode) :
    pixelAfter (cardinalPoints cx cy 1 m) = fun x y b => if |x - cx| + |y - cy| = 1 then applyBit m b else b := by
  funext x y b
  rw [pixelAfter_of_nodup (md := m) (by simp [cardinalPoints]) (nodup_cardinalPoints one_pos cx cy m)]
  simp only [mem_cardinalPoints_one]

theorem exec_small_circle_outline (m fm : Mode) (s : State) (hr : s.act.size2 ≤ 1) :
    exec (.drawCircle m false fm) s = s.draw (cardinalPoints s.act.coord0 s.act.coord1 s.act.size2 m) := by
  rw [← circle_outline_of_le_one hr]
  rfl

/-- Settles O22: there is no pass, so the plots are the four cardinals, which coincide for radius 0 and are distinct for
radius 1. -/
theorem smallCirclesAreCardinalPoints : Obligations.SmallCirclesAreCardinalPoints := by
  intro m fm s hwf hv
  refine ⟨fun hr => ?_, fun hr => ?_⟩
  · rw [exec_small_circle_outline m fm s (by omega), hr, Nat.cast_zero, ← pixelAfter_cardinalPoints_zero]
    exact State.draw_redrawn hwf hv _
  · rw [exec_small_circle_outline m fm s hr.le, hr, Nat.cast_one, ← pixelAfter_cardinalPoints_one]
    exact State.draw_redrawn hwf hv _

end Sys2Proof.Machine
end

section
/-! The raster family, rectangle outlines (43 R170, R171): the points of a row line and of a column line, and how often
the outline lists each plot. -/

namespace Sys2Proof.Machine

/-! ### Row lines and column lines (42 R140) -/

theorem lineCounts_row {dx : Int} (hdx : 0 < dx) (k : Nat) : lineCounts dx 0 k = (k, 0) := by
  obtain ⟨hcol, hlo, hhi⟩ := lineCounts_wide hdx (le_refl 0) hdx.le k
  rw [mul_zero, sub_zero] at hlo hhi
  exact Prod.ext hcol (Int.ofNat_eq_zero.1 (eq_zero_of_double_mul_le hdx hlo hhi))

theorem stepsToward_of_lt {c0 c1 : Int} (h : c0 < c1) (n : Nat) : stepsToward c0 c1 n = c0 + n := by
  rw [stepsToward, if_pos h, one_mul]

theorem linePoints_row (x0 y0 : Int) (w : Nat) :
    linePoints x0 y0 (x0 + w) y0 = (List.range (w + 1)).map fun k : Nat => (x0 + k, y0) := by
  obtain rfl | hw := Nat.eq_zero_or_pos w
  · simp [linePoints_coincident]
  · have hsteps : lineSteps x0 y0 (x0 + w) y0 = w := by simp [lineSteps]
    rw [linePoints_eq, hsteps]
    refine List.map_congr_left fun k _ => ?_
    have hcover : lineCover x0 y0 (x0 + w) y0 k = (k, 0) := by
      simp [lineCover, lineCounts_row (Int.natCast_pos.2 hw)]
    have hlt : x0 < x0 + w := Int.lt_add_of_pos_right x0 (Int.natCast_pos.2 hw)
    simp only [linePointAt, lineAt, hcover, stepsToward_zero, stepsToward_of_lt hlt]

theorem mem_linePoints_row {x0 y0 x y : Int} {w : Nat} :
    (x, y) ∈ linePoints x0 y0 (x0 + w) y0 ↔ y = y0 ∧ x0 ≤ x ∧ x ≤ x0 + w := by
  simp only [linePoints_row, List.mem_map, List.mem_range, Prod.mk.injEq]
  constructor
  · rintro ⟨k, hk, rfl, rfl⟩
    omega
  · rintro ⟨rfl, hlo, hhi⟩
    exact ⟨(x - x0).toNat, by omega, by omega, rfl⟩

theorem mem_linePoints_column {x0 y0 x y : Int} {h : Nat} :
    (x, y) ∈ linePoints x0 y0 x0 (y0 + h) ↔ x = x0 ∧ y0 ≤ y ∧ y ≤ y0 + h := by
  rw [linePoints_swap, ← Prod.swap_prod_mk, List.mem_map_of_injective Prod.swap_injective, mem_linePoints_row]

theorem count_line_row (x0 y0 : Int) (w : Nat) (m : Mode) (x y : Int) :
    (line x0 y0 (x0 + w) y0 m).count ⟨x, y, m⟩ =
      if y = y0 ∧ x0 ≤ x ∧ x ≤ x0 + w then if 0 < w ∧ x = x0 + w then 2 else 1 else 0 := by
  rw [count_line]
  simp only [mem_linePoints_row, and_true]
  split_ifs <;> omega

theorem count_line_column (x0 y0 : Int) (h : Nat) (m : Mode) (x y : Int) :
    (line x0 y0 x0 (y0 + h) m).count ⟨x, y, m⟩ =
      if x = x0 ∧ y0 ≤ y ∧ y ≤ y0 + h then if 0 < h ∧ y = y0 + h then 2 else 1 else 0 := by
  rw [count_line]
  simp only [mem_linePoints_column, true_and]
  split_ifs <;> omega

/-! ### The outline (43 R171) -/

/-- The border of columns `x0 .. x0 + w` and rows `y0 .. y0 + h`. -/
abbrev OnBorder (x0 y0 : Int) (w h : Nat) (x y : Int) : Prop :=
  x0 ≤ x ∧ x ≤ x0 + w ∧ y0 ≤ y ∧ y ≤ y0 + h ∧ (x = x0 ∨ x = x0 + w ∨ y = y0 ∨ y = y0 + h)

/-- The points of the border where a line of the outline ends, which its line plots twice. -/
abbrev EndsOutlineLine (x0 y0 : Int) (w h : Nat) (x y : Int) : Prop :=
  (0 < w ∧ x = x0 + w ∧ (y = y0 ∨ y = y0 + h)) ∨ (0 < w ∧ 2 < h ∧ y = y0 + h - 1) ∨ (w = 0 ∧ 0 < h ∧ y = y0 + h)

theorem rectOutline_of_width_zero (x0 y0 : Int) (h : Nat) (m : Mode) :
    rectOutline x0 y0 0 h m = line x0 y0 x0 (y0 + h) m := by
  unfold rectOutline
  by_cases hh : h = 0
  · subst h
    simp [line]
  · simp [hh]

theorem rectOutline_of_height_zero (x0 y0 : Int) (w : Nat) (m : Mode) :
    rectOutline x0 y0 w 0 m = line x0 y0 (x0 + w) y0 m := by
  unfold rectOutline
  by_cases hw : w = 0
  · subst w
    simp [line]
  · simp [hw]

/-- The top and the bottom row of an outline. -/
def outlineRows (x0 y0 : Int) (w h : Nat) (m : Mode) : List Plot :=
  line x0 y0 (x0 + w) y0 m ++ line x0 (y0 + h) (x0 + w) (y0 + h) m

/-- The side columns of an outline, which cover its interior rows. -/
def outlineSides (x0 y0 : Int) (w h : Nat) (m : Mode) : List Plot :=
  if 1 < h then line x0 (y0 + 1) x0 (y0 + h - 1) m ++ line (x0 + w) (y0 + 1) (x0 + w) (y0 + h - 1) m else []

theorem rectOutline_eq {w h : Nat} (hw : 0 < w) (hh : 0 < h) (x0 y0 : Int) (m : Mode) :
    rectOutline x0 y0 w h m = outlineRows x0 y0 w h m ++ outlineSides x0 y0 w h m := by
  rw [rectOutline, if_neg (by omega), if_neg (by omega), if_neg (by omega)]
  rfl

theorem count_outlineRows {w h : Nat} (hw : 0 < w) (hh : 0 < h) (x0 y0 : Int) (m : Mode) (x y : Int) :
    (outlineRows x0 y0 w h m).count ⟨x, y, m⟩ =
      if (y = y0 ∨ y = y0 + h) ∧ x0 ≤ x ∧ x ≤ x0 + w then if x = x0 + w then 2 else 1 else 0 := by
  rw [outlineRows, List.count_append, count_line_row, count_line_row]
  split_ifs <;> omega

theorem count_outlineSides {w : Nat} (hw : 0 < w) (x0 y0 : Int) (h : Nat) (m : Mode) (x y : Int) :
    (outlineSides x0 y0 w h m).count ⟨x, y, m⟩ =
      if (x = x0 ∨ x = x0 + w) ∧ y0 < y ∧ y < y0 + h then if 2 < h ∧ y = y0 + h - 1 then 2 else 1 else 0 := by
  unfold outlineSides
  by_cases hside : 1 < h
  · obtain ⟨k, rfl⟩ := Nat.exists_eq_add_of_le' hside
    have hlast : y0 + ((k + 2 : Nat) : Int) - 1 = y0 + 1 + k := by omega
    rw [if_pos hside, hlast, List.count_append, count_line_column, count_line_column]
    split_ifs <;> omega
  · rw [if_neg hside, List.count_nil, if_neg (by omega)]

theorem count_rectOutline (x0 y0 : Int) (w h : Nat) (m : Mode) (x y : Int) :
    (rectOutline x0 y0 w h m).count ⟨x, y, m⟩ =
      if OnBorder x0 y0 w h x y then if EndsOutlineLine x0 y0 w h x y then 2 else 1 else 0 := by
  unfold OnBorder EndsOutlineLine
  obtain rfl | hw := Nat.eq_zero_or_pos w
  · rw [rectOutline_of_width_zero, count_line_column]
    split_ifs <;> omega
  obtain rfl | hh := Nat.eq_zero_or_pos h
  · rw [rectOutline_of_height_zero, count_line_row]
    split_ifs <;> omega
  · rw [rectOutline_eq hw hh, List.count_append, count_outlineRows hw hh, count_outlineSides hw]
    split_ifs <;> omega

theorem mode_of_mem_rectOutline {x0 y0 : Int} {w h : Nat} {m : Mode} {p : Plot} (hp : p ∈ rectOutline x0 y0 w h m) :
    p.mode = m := by
  obtain rfl | hw := Nat.eq_zero_or_pos w
  · rw [rectOutline_of_width_zero] at hp
    exact mode_of_mem_line hp
  obtain rfl | hh := Nat.eq_zero_or_pos h
  · rw [rectOutline_of_height_zero] at hp
    exact mode_of_mem_line hp
  rw [rectOutline_eq hw hh, outlineRows, outlineSides, List.mem_append, List.mem_append] at hp
  obtain (hp | hp) | hp := hp
  · exact mode_of_mem_line hp
  · exact mode_of_mem_line hp
  split at hp
  · exact (List.mem_append.1 hp).elim mode_of_mem_line mode_of_mem_line
  · cases hp

theorem pixelAfter_rectOutline (x0 y0 : Int) (w h : Nat) (m : Mode) :
    pixelAfter (rectOutline x0 y0 w h m) = fun x y b =>
      if OnBorder x0 y0 w h x y then
        if EndsOutlineLine x0 y0 w h x y then applyBit m (applyBit m b) else applyBit m b
      else b := by
  funext x y b
  rw [pixelAfter_eq_iterate fun _ => mode_of_mem_rectOutline, count_rectOutline]
  split
  · split <;> rfl
  · rfl

theorem applyBit_idem {m : Mode} (h : m ≠ .invert) (b : BitVec 1) : applyBit m (applyBit m b) = applyBit m b := by
  cases m with
  | black | white | noOp => rfl
  | invert => exact absurd rfl h

/-- Settles O24: each plot of the outline is listed once, or twice where one of its lines ends, and only Invert tells
the two apart. -/
theorem rectOutlineCoversTheBorder : Obligations.RectOutlineCoversTheBorder := by
  intro m fm s hwf hv
  obtain ⟨t, hexec, hdrawn⟩ :=
    State.draw_redrawn hwf hv (rectOutline s.act.coord0 s.act.coord1 s.act.size2 s.act.size3 m)
  rw [pixelAfter_rectOutline] at hdrawn
  refine ⟨t, hexec, hdrawn, fun hm => ?_⟩
  simp only [applyBit_idem hm, ite_self] at hdrawn
  exact hdrawn

end Sys2Proof.Machine
end

section
/-! The rectangle family, filled rectangles (43 R172): the plots of a filled rectangle are distinct and in the fill
mode, row after row. -/

namespace Sys2Proof.Machine

section

variable {x0 y0 : Int} {w h : Nat} {fm : Mode}

theorem mem_rectFilled {p : Plot} :
    p ∈ rectFilled x0 y0 w h fm ↔
      (x0 ≤ p.x ∧ p.x ≤ x0 + w ∧ y0 ≤ p.y ∧ p.y < y0 + h) ∧ p.mode = fm := by
  simp only [rectFilled, List.mem_flatMap, mem_interval, mem_spanRow]
  constructor
  · rintro ⟨i, hi, hy, hx, hmode⟩
    exact ⟨by omega, hmode⟩
  · rintro ⟨hxy, hmode⟩
    exact ⟨p.y - y0, by omega, by omega, by omega, hmode⟩

/-- No plot is listed twice: not within a row, and two rows differ in `y`. -/
theorem nodup_rectFilled : (rectFilled x0 y0 w h fm).Nodup := by
  refine List.nodup_flatMap.2 ⟨fun _ _ => nodup_spanRow, (nodup_interval _ _).imp fun {i j} hij => ?_⟩
  intro p hi hj
  have hrow : y0 + i = y0 + j := (mem_spanRow.1 hi).1.symm.trans (mem_spanRow.1 hj).1
  exact hij (Int.add_left_cancel hrow)

theorem pixelAfter_rectFilled :
    pixelAfter (rectFilled x0 y0 w h fm) = fun x y b =>
      if x0 ≤ x ∧ x ≤ x0 + w ∧ y0 ≤ y ∧ y < y0 + h then applyBit fm b else b := by
  funext x y b
  rw [pixelAfter_of_nodup (fun p hp => (mem_rectFilled.1 hp).2) nodup_rectFilled]
  simp only [mem_rectFilled, and_true]

end

/-- Settles O25: the plots of the filled rectangle are distinct and in the fill mode, so each of its pixels takes the
mode once, whatever M is. -/
theorem filledRectCoversItsRows : Obligations.FilledRectCoversItsRows := by
  intro m fm s hwf hv
  rw [← pixelAfter_rectFilled]
  exact State.draw_redrawn hwf hv _

end Sys2Proof.Machine
end

section
/-! The scroll family, SHIFT (44 R180 to R187): a rewriting of the region is given by the byte it leaves at each offset,
and a shifted byte is given by its bits. -/

namespace Sys2Proof.Machine

/-! ### Rewritings of the region -/

/-- `m'` is `m` with byte `i` of the region replaced by `f i`, in the canonical form and with nothing changed outside. -/
structure Geom.Rewrites (g : Geom) (f : Nat → Byte) (m m' : Mem) : Prop where
  wf : Mem.wf m' = true
  bytes : ∀ i, i < g.bytes → g.byteAt m' i = f i
  outside : ∀ a, g.inRegion a = false → Mem.read m' a = Mem.read m a

section

variable {g : Geom} {f f' : Nat → Byte} {m m' m'' : Mem}

theorem Geom.Rewrites.refl (hm : Mem.wf m = true) : g.Rewrites (g.byteAt m) m m :=
  ⟨hm, fun _ _ => rfl, fun _ _ => rfl⟩

theorem Geom.Rewrites.trans (h : g.Rewrites f m m') (h' : g.Rewrites f' m' m'') : g.Rewrites f' m m'' :=
  ⟨h'.wf, h'.bytes, fun a ha => (h'.outside a ha).trans (h.outside a ha)⟩

theorem Geom.Rewrites.congr (h : g.Rewrites f m m') (hf : ∀ i, i < g.bytes → f i = f' i) : g.Rewrites f' m m' :=
  ⟨h.wf, fun i hi => (h.bytes i hi).trans (hf i hi), h.outside⟩

theorem Geom.Rewrites.unique (h : g.Rewrites f m m') (h' : g.Rewrites f m m'') : m' = m'' := by
  refine Mem.ext_read h.wf h'.wf fun a => ?_
  cases ha : g.inRegion a with
  | false => rw [h.outside a ha, h'.outside a ha]
  | true => exact (g.sameBytes_iff m' m'').1 (fun i hi => (h.bytes i hi).trans (h'.bytes i hi).symm) a ha

theorem Geom.Rewrites.write (hm : Mem.wf m = true) (hg : g.Fits) {j : Nat} (hj : j < g.bytes) (v : Byte) :
    g.Rewrites (fun i => if i = j then v else g.byteAt m i) m (Mem.write m (g.base + j) v) := by
  have ha : g.base + j < 2 ^ 32 := by unfold Geom.Fits at hg; omega
  refine ⟨Mem.wf_write hm ha v, fun i _ => Geom.byteAt_write hm ha v i, fun a hr => ?_⟩
  rw [Mem.read_write hm ha, if_neg]
  rintro rfl
  simp [(g.inRegion_iff _).2 ⟨Nat.le_add_right .., Nat.add_lt_add_left hj _⟩] at hr

/-- Part of the region written in one go. -/
theorem Geom.Rewrites.writePart (hm : Mem.wf m = true) (hg : g.Fits) (f : Nat → Byte) {j n : Nat}
    (hn : j + n ≤ g.bytes) :
    g.Rewrites (fun i => if j ≤ i ∧ i < j + n then f (i - j) else g.byteAt m i) m
      (Mem.writeRange (g.base + j) f n m) := by
  obtain ⟨hwf, hread⟩ := Mem.writeRange_spec hm (g.base + j) f (n := n) (by unfold Geom.Fits at hg; omega)
  refine ⟨hwf, fun i _ => ?_, fun a ha => ?_⟩
  · rw [Geom.byteAt, hread, Nat.add_sub_add_left]
    exact if_congr (by omega) rfl rfl
  · rw [hread, if_neg]
    intro h
    rw [(g.inRegion_iff a).2 (by omega)] at ha
    cases ha

/-- The whole region written in one go. -/
theorem Geom.Rewrites.writeAll (hm : Mem.wf m = true) (hg : g.Fits) (f : Nat → Byte) :
    g.Rewrites f m (Mem.writeRange g.base f g.bytes m) :=
  (Geom.Rewrites.writePart hm hg f (j := 0) (by omega)).congr fun i hi => if_pos (by omega)

end

/-! ### The columns of a byte (44 R180) -/

/-- The bit of column `j` of a byte, its most significant bit first. -/
def columnBit (b : Byte) (j : Nat) : BitVec 1 := BitVec.ofBool (b.getLsbD (7 - j))

theorem Geom.pixel_eq_columnBit (g : Geom) (m : Mem) (x y : Nat) :
    g.pixel m x y = columnBit (g.byteAt m (g.index x y)) (x % 8) := g.pixel_eq_ofBool m x y

theorem byte_eq_of_columnBit {a b : Byte} (h : ∀ j, j < 8 → columnBit a j = columnBit b j) : a = b := by
  apply BitVec.eq_of_getLsbD_eq
  intro i hi
  have hbit := h (7 - i) (by omega)
  rwa [columnBit, columnBit, BitVec.ofBool_eq_iff_eq, show 7 - (7 - i) = i by omega] at hbit

@[simp] theorem columnBit_zero (j : Nat) : columnBit 0x00#8 j = 0#1 := by
  rw [columnBit, BitVec.getLsbD_zero]
  rfl

theorem columnBit_packByte (f : Nat → BitVec 1) {j : Nat} (hj : j < 8) : columnBit (packByte f) j = f j := by
  apply BitVec.eq_of_getLsbD_eq
  intro i hi
  obtain rfl : i = 0 := by omega
  simp only [columnBit, packByte, BitVec.getLsbD_append]
  interval_cases j <;> simp

/-! ### A shifted byte (44 R182 to R185) -/

/-- `B'_r[c]`: the bit of row `r ± d` or of column `c ± d`, or 0 where there is none (44 R182 to R185). -/
def shiftBit (dir : Dir) (g : Geom) (m : Mem) (d r c : Nat) : BitVec 1 :=
  match dir with
  | .up => if r + d < g.h then g.pixel m c (r + d) else 0#1
  | .down => if d ≤ r then g.pixel m c (r - d) else 0#1
  | .left => shiftLeftBit g m d r c
  | .right => shiftRightBit g m d r c

theorem columnBit_shiftByte (dir : Dir) (g : Geom) (m : Mem) (d r c : Nat) :
    columnBit (shiftByte dir g m d r (c / 8)) (c % 8) = shiftBit dir g m d r c := by
  have hc : c % 8 < 8 := Nat.mod_lt c (by omega)
  have hcol : 8 * (c / 8) + c % 8 = c := Nat.div_add_mod c 8
  cases dir with
  | up | down =>
    simp only [shiftByte, shiftUpByte, shiftDownByte, shiftBit, apply_ite (columnBit · (c % 8)),
      Geom.pixel_eq_columnBit, columnBit_zero, Geom.index]
  | left | right => simp only [shiftByte, shiftBit, columnBit_packByte _ hc, hcol]

/-- `m'` is `m` with the region shifted by `d`. -/
def Geom.Shifts (g : Geom) (dir : Dir) (d : Nat) (m m' : Mem) : Prop :=
  g.Rewrites (fun i => shiftByte dir g m d (i / g.stride) (i % g.stride)) m m'

section

variable {g : Geom} {dir : Dir} {d : Nat} {m m' : Mem}

theorem Geom.Shifts.byte (h : g.Shifts dir d m m') {r k : Nat} (hr : r < g.h) (hk : k < g.stride) :
    g.byteAt m' (r * g.stride + k) = shiftByte dir g m d r k := by
  have hpos : 0 < g.stride := Nat.zero_lt_of_lt hk
  rw [h.bytes _ (Geom.row_byte_lt hr hk), Nat.mul_comm r, Nat.mul_add_div hpos, Nat.mul_add_mod, Nat.mod_eq_of_lt hk,
    Nat.div_eq_of_lt hk, Nat.add_zero]

theorem Geom.Shifts.pixel (h : g.Shifts dir d m m') {r c : Nat} (hr : r < g.h) (hc : c < 8 * g.stride) :
    g.pixel m' c r = shiftBit dir g m d r c := by
  rw [Geom.pixel_eq_columnBit, Geom.index, h.byte hr (by omega), columnBit_shiftByte]

end

/-! ### The command (44 R181) -/

variable {s : State}

theorem exec_shift (hm : Mem.wf s.fbmem = true) (hv : s.regionValid = true) (dir : Dir) :
    ∃ fb, exec (.shift dir) s = .next { s with busy := false, fbmem := fb } ∧
      s.act.geom.Shifts dir s.act.size0 s.fbmem fb := by
  rw [exec, execShift, State.rewrite, s.engineStep_valid hv]
  exact ⟨_, rfl, Geom.Rewrites.writeAll hm (State.fits_of_valid hv) _⟩

/-- Settles O26: the bits of the shifted bytes. -/
theorem shiftMovesEveryBit : Obligations.ShiftMovesEveryBit := by
  intro dir s hwf hv
  obtain ⟨hm, -⟩ := s.memoriesWf_iff.1 hwf
  obtain ⟨fb, hexec, hfb⟩ := exec_shift hm hv dir
  refine ⟨_, hexec, rfl, fun r c hr hc => ?_, hfb.outside⟩
  have hpix := hfb.pixel hr hc
  cases dir with
  | up | down | left | right => exact hpix

/-! ### Round trips (44 R187) -/

theorem exec_shift_twice (hm : Mem.wf s.fbmem = true) (hv : s.regionValid = true) (dir dir' : Dir) :
    ∃ t u, exec (.shift dir) s = .next t ∧ exec (.shift dir') t = .next u ∧ u.act = s.act ∧
      s.act.geom.Shifts dir s.act.size0 s.fbmem t.fbmem ∧ s.act.geom.Shifts dir' s.act.size0 t.fbmem u.fbmem := by
  obtain ⟨fb, hexec, hfb⟩ := exec_shift hm hv dir
  obtain ⟨fb', hexec', hfb'⟩ := exec_shift (s := { s with busy := false, fbmem := fb }) hfb.wf hv dir'
  exact ⟨_, _, hexec, hexec', rfl, hfb, hfb'⟩

/-- Settles O27: the second shift takes each bit, or byte, from where the first has put it. -/
theorem shiftRoundTrip : Obligations.ShiftRoundTrip := by
  intro s hwf hv
  obtain ⟨hm, -⟩ := s.memoriesWf_iff.1 hwf
  constructor
  · obtain ⟨t, u, ht, hu, hact, hleft, hright⟩ := exec_shift_twice hm hv .left .right
    refine ⟨t, u, ht, hu, fun r c hr hc => ?_⟩
    rw [State.pixelAt, hact, hright.pixel hr hc, shiftBit, shiftRightBit]
    refine if_ctx_congr Iff.rfl (fun hd => ?_) fun _ => rfl
    rw [hleft.pixel hr (by omega), shiftBit, shiftLeftBit, Nat.sub_add_cancel hd, if_pos hc]
    rfl
  · obtain ⟨t, u, ht, hu, -, hup, hdown⟩ := exec_shift_twice hm hv .up .down
    refine ⟨t, u, ht, hu, fun r k hr hk => ?_⟩
    refine (hdown.byte hr hk).trans ?_
    rw [shiftByte, shiftDownByte]
    refine if_ctx_congr Iff.rfl (fun hd => ?_) fun _ => rfl
    rw [hup.byte (by omega) hk, shiftByte, shiftUpByte, Nat.sub_add_cancel hd, if_pos hr]
    rfl

end Sys2Proof.Machine
end

section
/-! The scroll family, byte formulas (44 R186): two neighbouring bytes of a row shifted together hold eight consecutive
bits of the row bit stream. -/

namespace Sys2Proof.Machine

/-- The row bit stream at any column, 0 outside the row (44 R180, R186). -/
def rowBit (g : Geom) (m : Mem) (r : Nat) (c : Int) : BitVec 1 :=
  if 0 ≤ c ∧ c < 8 * g.stride then g.pixel m c.toNat r else 0#1

section

variable {g : Geom} {m : Mem} {d r : Nat}

theorem columnBit_rowByteOrZero (q : Int) {j : Nat} (hj : j < 8) :
    columnBit (rowByteOrZero g m r q) j = rowBit g m r (8 * q + j) := by
  unfold rowByteOrZero rowBit
  by_cases hq : 0 ≤ q ∧ q < g.stride
  · have hdiv : (8 * q + j).toNat / 8 = q.toNat := by omega
    have hmod : (8 * q + j).toNat % 8 = j := by omega
    rw [if_pos hq, if_pos (by omega), Geom.pixel_eq_columnBit, Geom.index, hdiv, hmod]
  · rw [if_neg hq, if_neg (by omega), columnBit_zero]

theorem shiftLeftBit_eq_rowBit (c : Nat) : shiftLeftBit g m d r c = rowBit g m r (c + d) :=
  if_congr (by omega) (by congr 1) rfl

theorem shiftRightBit_eq_rowBit {c : Nat} (hc : c < 8 * g.stride) :
    shiftRightBit g m d r c = rowBit g m r (c - d) :=
  if_congr (by omega) (by congr 1; omega) rfl

theorem columnBit_shiftLeft_or_shiftRight (a b : Byte) {n j : Nat} (hn : n ≤ 8) (hj : j < 8) :
    columnBit (a <<< n ||| b >>> (8 - n)) j =
      if j + n < 8 then columnBit a (j + n) else columnBit b (j + n - 8) := by
  simp only [columnBit, BitVec.getLsbD_or, BitVec.getLsbD_shiftLeft, BitVec.getLsbD_ushiftRight]
  split
  · next h =>
    rw [BitVec.getLsbD_of_ge b _ (by omega), show 7 - j - n = 7 - (j + n) by omega]
    simp [show 7 - j < 8 by omega, show ¬ 7 - j < n by omega]
  · next h =>
    rw [show 8 - n + (7 - j) = 7 - (j + n - 8) by omega]
    simp [show 7 - j < n by omega]

/-- Bytes `q` and `q + 1` of a row, shifted together by `n`: the eight bits of the row from column `8 * q + n` on. -/
theorem columnBit_rowBytes (q : Int) {n j : Nat} (hn : n ≤ 8) (hj : j < 8) :
    columnBit (rowByteOrZero g m r q <<< n ||| rowByteOrZero g m r (q + 1) >>> (8 - n)) j =
      rowBit g m r (8 * q + n + j) := by
  rw [columnBit_shiftLeft_or_shiftRight _ _ hn hj]
  split
  · rw [columnBit_rowByteOrZero _ (by omega)]
    congr 1; omega
  · rw [columnBit_rowByteOrZero _ (by omega)]
    congr 1; omega

/-- The second term of the formulas needs no case for `s = 0`: a byte shifted by 8 is 0. -/
theorem leftByBytes_eq (k : Nat) :
    leftByBytes g m d r k =
      rowByteOrZero g m r (k + (d / 8 : Nat)) <<< (d % 8) |||
        rowByteOrZero g m r (k + (d / 8 : Nat) + 1) >>> (8 - d % 8) := by
  simp only [leftByBytes]
  split
  · next h => rw [h, BitVec.ushiftRight_eq_zero (by omega)]
  · rfl

theorem rightByBytes_eq (k : Nat) :
    rightByBytes g m d r k =
      rowByteOrZero g m r (k - (d / 8 : Nat) - 1) <<< (8 - d % 8) |||
        rowByteOrZero g m r (k - (d / 8 : Nat) - 1 + 1) >>> (8 - (8 - d % 8)) := by
  have hs : d % 8 < 8 := Nat.mod_lt d (by omega)
  rw [BitVec.or_comm, Int.sub_add_cancel, Nat.sub_sub_self hs.le]
  simp only [rightByBytes]
  split
  · next h => rw [h, BitVec.shiftLeft_eq_zero (by omega)]
  · rfl

end

/-- Settles O57: bit `j` of either byte is the bit of the row `d` columns away from column `8 * k + j`. -/
theorem shiftByteFormulasEqualBitShifts : Obligations.ShiftByteFormulasEqualBitShifts := by
  intro g m d r k _ hk
  constructor
  · refine byte_eq_of_columnBit fun j hj => ?_
    rw [leftByBytes_eq, columnBit_rowBytes _ (by omega) hj, shiftByte, columnBit_packByte _ hj, shiftLeftBit_eq_rowBit]
    congr 1; omega
  · refine byte_eq_of_columnBit fun j hj => ?_
    rw [rightByBytes_eq, columnBit_rowBytes _ (by omega) hj, shiftByte, columnBit_packByte _ hj,
      shiftRightBit_eq_rowBit (by omega)]
    congr 1; omega

end Sys2Proof.Machine
end

section
/-! The scroll family, in-place copies (44 R186): what the copy and the clear pass leave at each byte of the region. -/

namespace Sys2Proof.Machine

section

variable {g : Geom} {m : Mem} {d n e : Nat}

/-! ### The copies -/

theorem moveByte_rewrites (hm : Mem.wf m = true) (hg : g.Fits) {src dst : Nat} (hs : src < g.bytes)
    (hd : dst < g.bytes) :
    g.Rewrites (fun i => if i = dst then g.byteAt m src else if i = src then 0x00#8 else g.byteAt m i) m
      (moveByte g m src dst) := by
  have hclear := Geom.Rewrites.write hm hg hs 0x00#8
  refine (hclear.trans (.write hclear.wf hg hd _)).congr fun i hi => ?_
  rw [hclear.bytes i hi]

/-- After `n` moves, ascending: the first `n` bytes hold what lay `e` above them, and the bytes they came from and that
took nothing since are clear. -/
theorem foldl_moveByte_rewrites (hm : Mem.wf m = true) (hg : g.Fits) (hn : n ≤ g.bytes - e) :
    g.Rewrites
      (fun i => if i < n then g.byteAt m (i + e) else if e ≤ i ∧ i < n + e then 0x00#8 else g.byteAt m i) m
      ((List.range n).foldl (fun m i => moveByte g m (i + e) i) m) := by
  induction n with
  | zero => exact (Geom.Rewrites.refl hm).congr fun i _ => by rw [if_neg (by omega), if_neg (by omega)]
  | succ n ih =>
    rw [List.range_succ, List.foldl_concat]
    have hmoved := ih (by omega)
    have hsrc := hmoved.bytes (n + e) (by omega)
    rw [if_neg (by omega), if_neg (by omega)] at hsrc
    refine (hmoved.trans (moveByte_rewrites hmoved.wf hg (by omega) (by omega))).congr fun i hi => ?_
    rw [hsrc, hmoved.bytes i hi]
    by_cases hdst : i = n
    · rw [if_pos hdst, if_pos (by omega), hdst]
    · rw [if_neg hdst]
      by_cases hcleared : i = n + e
      · rw [if_pos hcleared, if_neg (by omega), if_pos (by omega)]
      · rw [if_neg hcleared]
        exact if_congr (by omega) rfl (if_congr (by omega) rfl rfl)

/-- After `n` moves, descending: the mirror image. -/
theorem foldr_moveByte_rewrites (hm : Mem.wf m = true) (hg : g.Fits) (hn : n ≤ g.bytes - e) :
    g.Rewrites
      (fun i => if e ≤ i ∧ i < n + e then g.byteAt m (i - e) else if i < n then 0x00#8 else g.byteAt m i) m
      ((List.range n).foldr (fun i m => moveByte g m i (i + e)) m) := by
  induction n generalizing m with
  | zero => exact (Geom.Rewrites.refl hm).congr fun i _ => by rw [if_neg (by omega), if_neg (by omega)]
  | succ n ih =>
    rw [List.range_succ, List.foldr_concat]
    have hmove := moveByte_rewrites hm hg (src := n) (dst := n + e) (by omega) (by omega)
    refine (hmove.trans (ih hmove.wf (by omega))).congr fun i hi => ?_
    rw [hmove.bytes (i - e) (by omega), hmove.bytes i hi]
    by_cases hlater : e ≤ i ∧ i < n + e
    · rw [if_pos hlater, if_neg (by omega), if_neg (by omega), if_pos (by omega)]
    · rw [if_neg hlater]
      by_cases hdst : i = n + e
      · rw [if_neg (by omega), if_pos hdst, if_pos (by omega), hdst, Nat.add_sub_cancel]
      · rw [if_neg hdst, if_neg (c := e ≤ i ∧ i < n + 1 + e) (by omega)]
        by_cases hcleared : i = n
        · rw [if_pos hcleared, ite_self, if_pos (by omega)]
        · rw [if_neg hcleared]
          exact if_congr (by omega) rfl rfl

/-! ### The clear pass -/

theorem Geom.bytes_sub_rows (g : Geom) (d : Nat) : (g.h - d) * g.stride = g.bytes - d * g.stride := by
  rw [Nat.sub_mul, Nat.mul_comm g.h, Geom.bytes]

/-- The clear pass clears the rows `H - d .. d - 1`, as byte offsets. -/
theorem clearUntouched_rewrites (hm : Mem.wf m = true) (hg : g.Fits) (d : Nat) :
    g.Rewrites (fun i => if g.bytes ≤ i + d * g.stride ∧ i < d * g.stride then 0x00#8 else g.byteAt m i) m
      (clearUntouched g d m) := by
  have hcount : (min d g.h - (g.h - d)) * g.stride = min (d * g.stride) g.bytes - (g.bytes - d * g.stride) := by
    rw [Nat.sub_mul, ← Nat.mul_min_mul_right, Nat.mul_comm g.h, g.bytes_sub_rows, Geom.bytes]
  rw [clearUntouched, hcount, g.bytes_sub_rows]
  exact (Geom.Rewrites.writePart hm hg _ (by omega)).congr fun i hi => if_congr (by omega) rfl rfl

theorem clearUntouched_of_le_half (hd : 2 * d ≤ g.h) (m : Mem) : clearUntouched g d m = m := by
  rw [clearUntouched, show min d g.h - (g.h - d) = 0 by omega, Nat.zero_mul]
  rfl

/-! ### The row shifts by byte offsets (44 R182, R183) -/

theorem shiftByte_up_offset {i : Nat} (hi : i < g.bytes) :
    shiftByte .up g m d (i / g.stride) (i % g.stride) =
      if i + d * g.stride < g.bytes then g.byteAt m (i + d * g.stride) else 0x00#8 := by
  have hpos : 0 < g.stride := Nat.pos_of_mul_pos_right (Nat.zero_lt_of_lt hi)
  have hrow : i / g.stride + d < g.h ↔ i + d * g.stride < g.bytes := by
    rw [← Nat.add_mul_div_right i d hpos, Nat.div_lt_iff_lt_mul hpos, Nat.mul_comm g.h, Geom.bytes]
  have hbyte : (i / g.stride + d) * g.stride + i % g.stride = i + d * g.stride := by
    rw [Nat.add_mul, Nat.add_right_comm, Nat.div_add_mod']
  rw [shiftByte, shiftUpByte, hbyte]
  exact if_congr hrow rfl rfl

theorem shiftByte_down_offset {i : Nat} (hi : i < g.bytes) :
    shiftByte .down g m d (i / g.stride) (i % g.stride) =
      if d * g.stride ≤ i then g.byteAt m (i - d * g.stride) else 0x00#8 := by
  have hpos : 0 < g.stride := Nat.pos_of_mul_pos_right (Nat.zero_lt_of_lt hi)
  refine if_ctx_congr (Nat.le_div_iff_mul_le hpos) (fun hd => ?_) fun _ => rfl
  have hrow := Nat.mul_le_mul_right g.stride ((Nat.le_div_iff_mul_le hpos).2 hd)
  rw [Nat.sub_mul, ← Nat.sub_add_comm hrow, Nat.div_add_mod']

/-! ### Copy and clear pass together -/

theorem upByBytes_shifts (hm : Mem.wf m = true) (hg : g.Fits) (d : Nat) :
    g.Shifts .up d m (upByBytes g d m) := by
  have hcopy := foldl_moveByte_rewrites hm hg (Nat.le_refl (g.bytes - d * g.stride))
  refine (hcopy.trans (clearUntouched_rewrites hcopy.wf hg d)).congr fun i hi => ?_
  rw [hcopy.bytes i hi, shiftByte_up_offset hi]
  by_cases hsrc : i + d * g.stride < g.bytes
  · rw [if_neg (by omega), if_pos (by omega), if_pos hsrc]
  · rw [if_neg hsrc]
    by_cases hlow : i < d * g.stride
    · rw [if_pos (by omega)]
    · rw [if_neg (by omega), if_neg (by omega), if_pos (by omega)]

theorem downByBytes_shifts (hm : Mem.wf m = true) (hg : g.Fits) (d : Nat) :
    g.Shifts .down d m (downByBytes g d m) := by
  have hcopy := foldr_moveByte_rewrites hm hg (Nat.le_refl (g.bytes - d * g.stride))
  refine (hcopy.trans (clearUntouched_rewrites hcopy.wf hg d)).congr fun i hi => ?_
  rw [hcopy.bytes i hi, shiftByte_down_offset hi]
  by_cases hsrc : d * g.stride ≤ i
  · rw [if_neg (by omega), if_pos (by omega), if_pos hsrc]
  · rw [if_neg hsrc]
    by_cases hhigh : g.bytes ≤ i + d * g.stride
    · rw [if_pos (by omega)]
    · rw [if_neg (by omega), if_neg (by omega), if_pos (by omega)]

end

/-- Settles O58: with the clear pass each copy rewrites the region with the shifted bytes, and up to half the height the
pass clears nothing. -/
theorem inPlaceCopiesEqualRowShifts : Obligations.InPlaceCopiesEqualRowShifts := by
  intro g m d hm hg
  have hup := Geom.Rewrites.unique (upByBytes_shifts hm hg d) (.writeAll hm hg _)
  have hdown := Geom.Rewrites.unique (downByBytes_shifts hm hg d) (.writeAll hm hg _)
  refine ⟨fun hd => ⟨?_, ?_⟩, hup, hdown⟩
  · rw [← hup, upByBytes, clearUntouched_of_le_half hd]
  · rw [← hdown, downByBytes, clearUntouched_of_le_half hd]

end Sys2Proof.Machine
end

section
/-! The blit family, BITMAP (45 R200 to R205): what a bitmap leaves is given by the columns it covers and by the bit it
puts on each, so making the same copy plot by plot, byte by byte or once more leaves the same memory. -/

namespace Sys2Proof.Machine

/-! ### Copying bits onto a set of columns -/

/-- `m'` is `m` with each column `(c, r)` of the region's rows that is in `D` holding the bit `v c r`, and nothing else
changed. -/
structure Geom.Copies (g : Geom) (v : Nat → Nat → BitVec 1) (D : Nat → Nat → Prop) (m m' : Mem) : Prop where
  wf : Mem.wf m' = true
  outside : ∀ a, g.inRegion a = false → Mem.read m' a = Mem.read m a
  copied : ∀ c r, c < 8 * g.stride → r < g.h → D c r → g.pixel m' c r = v c r
  kept : ∀ c r, c < 8 * g.stride → r < g.h → ¬D c r → g.pixel m' c r = g.pixel m c r

section

variable {g : Geom} {v : Nat → Nat → BitVec 1} {D E : Nat → Nat → Prop} {m m' m'' : Mem}

theorem Geom.Copies.of_empty (hm : Mem.wf m = true) (hD : ∀ c r, ¬D c r) : g.Copies v D m m :=
  ⟨hm, fun _ _ => rfl, fun c r _ _ h => absurd h (hD c r), fun _ _ _ _ _ => rfl⟩

theorem Geom.Copies.congr (h : g.Copies v D m m') (hDE : ∀ c r, D c r ↔ E c r) : g.Copies v E m m' :=
  ⟨h.wf, h.outside, fun c r hc hr hE => h.copied c r hc hr ((hDE c r).2 hE),
    fun c r hc hr hE => h.kept c r hc hr (mt (hDE c r).1 hE)⟩

/-- Two copies of the same bits need not be disjoint. -/
theorem Geom.Copies.trans (h : g.Copies v D m m') (h' : g.Copies v E m' m'') :
    g.Copies v (fun c r => D c r ∨ E c r) m m'' := by
  refine ⟨h'.wf, fun a ha => (h'.outside a ha).trans (h.outside a ha), fun c r hc hr hor => ?_, fun c r hc hr hor => ?_⟩
  · by_cases hE : E c r
    · exact h'.copied c r hc hr hE
    · rw [h'.kept c r hc hr hE, h.copied c r hc hr (hor.resolve_right hE)]
  · rw [not_or] at hor
    rw [h'.kept c r hc hr hor.2, h.kept c r hc hr hor.1]

theorem Geom.Copies.unique (h : g.Copies v D m m') (h' : g.Copies v D m m'') : m' = m'' :=
  (Geom.ActsOn.of_noOp (D := D) h.wf).unique
    ⟨h'.wf, fun a ha => (h'.outside a ha).trans (h.outside a ha).symm,
      fun c r hc hr hD => (h'.copied c r hc hr hD).trans (h.copied c r hc hr hD).symm,
      fun c r hc hr hD => (h'.kept c r hc hr hD).trans (h.kept c r hc hr hD).symm⟩

/-- Making the same copy again changes nothing. -/
theorem Geom.Copies.again (h : g.Copies v D m m') (h' : g.Copies v D m' m'') : m'' = m' :=
  ((h.trans h').congr fun _ _ => or_self_iff).unique h

/-- A fold of copies covers the columns of each. -/
theorem Geom.Copies.foldl {α : Type} {f : Mem → α → Mem} {cols : α → Nat → Nat → Prop} {l : List α}
    (hm : Mem.wf m = true) (h : ∀ a ∈ l, ∀ m, Mem.wf m = true → g.Copies v (cols a) m (f m a)) :
    g.Copies v (fun c r => ∃ a ∈ l, cols a c r) m (l.foldl f m) := by
  induction l generalizing m with
  | nil => exact .of_empty hm fun c r => by simp
  | cons a l ih =>
    rw [List.forall_mem_cons] at h
    have hfirst := h.1 m hm
    exact (hfirst.trans (ih hfirst.wf h.2)).congr fun c r => (List.exists_mem_cons_iff (cols · c r) a l).symm

end

/-! ### The copy by plots (45 R203) -/

/-- The bit of a bitmap placed at `(x, y)` that falls on column `c` of row `r` (45 R200, R203). -/
def bitmapBit (x y : Int) (b : BitmapHeader) (data : List Byte) (c r : Nat) : BitVec 1 :=
  BitVec.ofBool (sourcePixel b.rowBytes data (c - x).toNat (r - y).toNat)

/-- The pixels of the framebuffer that a bitmap placed at `(x, y)` covers (45 R203). -/
def Geom.BitmapRect (g : Geom) (x y : Int) (b : BitmapHeader) (c r : Nat) : Prop :=
  c < g.w ∧ (x ≤ c ∧ c < x + b.width) ∧ y ≤ r ∧ r < y + b.height

section

variable {g : Geom} {m : Mem} {x y : Int} {b : BitmapHeader} {data : List Byte}

theorem plotOne_copies (hm : Mem.wf m = true) (hg : g.Fits) {v : Nat → Nat → BitVec 1} {p : Plot}
    (h : ∀ c r : Nat, p.x = c → p.y = r → ∀ bit, applyBit p.mode bit = v c r) :
    g.Copies v (fun c r => p.x = c ∧ p.y = r ∧ c < g.w) m (plotOne g m p) := by
  refine ⟨plotOne_wf hm hg p, fun a => plotOne_read_outside hm hg p, fun c r hc hr hp => ?_, fun c r hc hr hp => ?_⟩
  · rw [plotOne_pixel hm hg p hc hr, if_pos hp, h c r hp.1 hp.2.1]
  · rw [plotOne_pixel hm hg p hc hr, if_neg hp]

theorem mem_blit {p : Plot} :
    p ∈ blit x y b data ↔
      ((x ≤ p.x ∧ p.x < x + b.width) ∧ y ≤ p.y ∧ p.y < y + b.height) ∧
        p.mode = if sourcePixel b.rowBytes data (p.x - x).toNat (p.y - y).toNat then .white else .black := by
  obtain ⟨px, py, pm⟩ := p
  simp only [blit, List.mem_flatMap, List.mem_map, List.mem_range, Plot.mk.injEq]
  constructor
  · rintro ⟨j, hj, i, hi, rfl, rfl, rfl⟩
    refine ⟨by omega, ?_⟩
    rw [add_sub_cancel_left, add_sub_cancel_left, Int.toNat_natCast, Int.toNat_natCast]
  · rintro ⟨hrect, hmode⟩
    exact ⟨(py - y).toNat, by omega, (px - x).toNat, by omega, by omega, by omega, hmode.symm⟩

/-- White and Black, unlike Invert, leave a bit that does not depend on the one before. -/
theorem applyBit_white_or_black (q : Bool) (bit : BitVec 1) :
    applyBit (if q then .white else .black) bit = BitVec.ofBool q := by
  cases q <;> rfl

theorem plotAll_blit_copies (hm : Mem.wf m = true) (hg : g.Fits) (x y : Int) (b : BitmapHeader) (data : List Byte) :
    g.Copies (bitmapBit x y b data) (g.BitmapRect x y b) m (plotAll g (blit x y b data) m) := by
  refine (Geom.Copies.foldl (cols := fun (p : Plot) c r => p.x = c ∧ p.y = r ∧ c < g.w) hm fun p hp m hm =>
    plotOne_copies hm hg fun c r hc hr bit => ?_).congr fun c r => ?_
  · rw [(mem_blit.1 hp).2, applyBit_white_or_black, hc, hr]
    rfl
  · constructor
    · rintro ⟨p, hp, hc, hr, hw⟩
      obtain ⟨⟨hx, hy⟩, -⟩ := mem_blit.1 hp
      exact ⟨hw, hc ▸ hx, hr ▸ hy⟩
    · rintro ⟨hw, hx, hy⟩
      exact ⟨⟨c, r, if sourcePixel b.rowBytes data (c - x).toNat (r - y).toNat then .white else .black⟩,
        mem_blit.2 ⟨⟨hx, hy⟩, rfl⟩, rfl, rfl, hw⟩

end

/-! ### The source bytes (45 R200, R204) -/

theorem setWidth_ushiftRight_eq_columnBit (b : Byte) (j : Nat) : (b >>> (7 - j)).setWidth 1 = columnBit b j := by
  apply BitVec.eq_of_getLsbD_eq
  intro i hi
  obtain rfl : i = 0 := by omega
  simp [columnBit]

theorem readBytes_getElem? {rd : Nat → Option Byte} {a n : Nat} {data : List Byte} (h : readBytes rd a n = some data)
    {k : Nat} (hk : k < n) : data[k]? = rd (a + k) := by
  induction n generalizing a data k with
  | zero => omega
  | succ n ih =>
    rw [readBytes] at h
    split at h
    · cases h
    · next b hb =>
      split at h
      · cases h
      · next bs hbs =>
        cases h
        cases k with
        | zero => rw [Nat.add_zero, hb]; rfl
        | succ k => rw [List.getElem?_cons_succ, ih hbs (by omega), Nat.add_right_comm, Nat.add_assoc]

theorem ofBool_sourcePixel (sb : Nat) (data : List Byte) (i j : Nat) :
    BitVec.ofBool (sourcePixel sb data i j) = columnBit ((data[j * sb + i / 8]?).getD 0x00#8) (i % 8) := rfl

/-! ### The command (45 R202, R203) -/

section

variable {s t : State} {b : BitmapHeader} {data : List Byte}

theorem exec_bitmap (hv : s.regionValid = true) (h : readBitmap s.srcRead s.act = some (b, data)) :
    exec .bitmap s = .next (s.drawn (blit s.act.coord0 s.act.coord1 b data)) := by
  rw [exec, execBitmap_of_readable h, State.draw, s.engineStep_valid hv]

theorem exec_bitmap_next (h : exec .bitmap s = .next t) :
    s.regionValid = true ∧ ∃ b data, readBitmap s.srcRead s.act = some (b, data) ∧
      t = s.drawn (blit s.act.coord0 s.act.coord1 b data) := by
  rw [exec] at h
  cases hb : readBitmap s.srcRead s.act with
  | none =>
    rw [execBitmap_of_unreadable hb] at h
    cases (State.engineStep_next h).2
  | some q =>
    rw [execBitmap_of_readable hb] at h
    obtain ⟨hv, ht⟩ := State.draw_next h
    exact ⟨hv, _, _, rfl, ht⟩

theorem readBitmap_of_header
    (hb : readHeader s.srcRead s.act.source s.act.size2 s.act.bitmapWidth s.act.bitmapHeight = some b)
    (hdata : readBytes s.srcRead (s.act.source + b.data) (b.height * b.rowBytes) = some data) :
    readBitmap s.srcRead s.act = some (b, data) := by
  simp only [readBitmap, hb, hdata]

/-- Plots that change nothing when made again leave the whole state as it is when made again. -/
theorem State.drawn_again {ps : List Plot}
    (h : plotAll s.act.geom ps (plotAll s.act.geom ps s.fbmem) = plotAll s.act.geom ps s.fbmem) :
    (s.drawn ps).drawn ps = s.drawn ps :=
  congrArg (fun fb => { s.finish with fbmem := fb }) h

end

/-- Settles O29: the command makes the plots of the bitmap it has read, and they copy its bits. -/
theorem bitmapCopiesItsSourcePixels : Obligations.BitmapCopiesItsSourcePixels := by
  intro s b hwf hv hb hreadable
  obtain ⟨hm, -⟩ := s.memoriesWf_iff.1 hwf
  obtain ⟨data, hdata⟩ := Option.isSome_iff_exists.1 ((readBytes_isSome_iff ..).2 hreadable)
  have hcopy := plotAll_blit_copies hm (State.fits_of_valid hv) s.act.coord0 s.act.coord1 b data
  have hw := s.act.geom.w_le
  refine ⟨_, exec_bitmap hv (readBitmap_of_header hb hdata), rfl, fun c r hc hr => ?_, fun c r hc hc' hr => ?_,
    hcopy.outside⟩
  · dsimp only
    split
    · next hin =>
      obtain ⟨hx0, hx1, hy0, hy1⟩ := hin
      refine (hcopy.copied c r (by omega) hr ⟨hc, ⟨hx0, hx1⟩, hy0, hy1⟩).trans ?_
      have hbyte : ((r : Int) - s.act.coord1).toNat * b.rowBytes + ((c : Int) - s.act.coord0).toNat / 8 <
          b.height * b.rowBytes := by
        rw [Nat.mul_comm]
        exact Nat.mul_add_lt_mul_of_lt_of_lt (by omega) (by rw [BitmapHeader.rowBytes]; omega)
      rw [setWidth_ushiftRight_eq_columnBit, bitmapBit, ofBool_sourcePixel, readBytes_getElem? hdata hbyte]
      rfl
    · next hout =>
      exact hcopy.kept c r (by omega) hr fun ⟨_, ⟨hx0, hx1⟩, hy0, hy1⟩ => hout ⟨hx0, hx1, hy0, hy1⟩
  · exact hcopy.kept c r hc' hr fun hin => absurd hin.1 (by omega)

/-- Settles O31: the second BITMAP reads the same source, and the same copy made again changes nothing. -/
theorem bitmapIsIdempotent : Obligations.BitmapIsIdempotent := by
  intro s t hwf h
  obtain ⟨hm, -⟩ := s.memoriesWf_iff.1 hwf
  obtain ⟨hv, b, data, hread, rfl⟩ := exec_bitmap_next h
  have hg := State.fits_of_valid hv
  have hfirst := plotAll_blit_copies hm hg s.act.coord0 s.act.coord1 b data
  have hsecond := plotAll_blit_copies hfirst.wf hg s.act.coord0 s.act.coord1 b data
  rw [exec_bitmap (s := s.drawn _) hv hread, State.drawn_act, State.drawn_again (hfirst.again hsecond)]

end Sys2Proof.Machine
end

section
/-! The blit family, the byte method (45 R205): a merge copies the columns under its mask, a source byte is placed by two
merges, and the bytes of the bitmap together cover its rectangle. -/

namespace Sys2Proof.Machine

section

variable {g : Geom} {m : Mem} {v : Nat → Nat → BitVec 1} {x y : Int} {n : Nat} {s : Byte}

theorem mergeByte_copies (hm : Mem.wf m = true) (hg : g.Fits) {D : Nat → Nat → Prop} {q : Int} {k w : Byte}
    (hD : ∀ c r : Nat, D c r ↔ y = r ∧ q = ((c / 8 : Nat) : Int) ∧ c < g.w ∧ k.getLsbD (7 - c % 8) = true)
    (hv : ∀ c r : Nat, D c r → columnBit w (c % 8) = v c r) : g.Copies v D m (mergeByte g m y q k w) := by
  obtain ⟨hwf, hout, hpix⟩ := mergeByte_spec hm hg y q k w
  refine ⟨hwf, hout, fun c r hc hr hcr => ?_, fun c r hc hr hcr => ?_⟩
  · rw [hpix c r hc hr, if_pos ((hD c r).1 hcr), setWidth_ushiftRight_eq_columnBit, hv c r hcr]
  · rw [hpix c r hc hr, if_neg fun h => hcr ((hD c r).2 h)]

/-! ### One source byte -/

/-- The mask of the first `n` columns of a byte. -/
theorem firstColumns_getLsbD (hn : n ≤ 8) (i : Nat) : (0xFF#8 <<< (8 - n)).getLsbD i = decide (8 ≤ i + n ∧ i < 8) := by
  rw [show 0xFF#8 = BitVec.allOnes 8 from rfl, BitVec.getLsbD_shiftLeft, BitVec.getLsbD_allOnes, Bool.eq_iff_iff]
  simp only [Bool.and_eq_true, decide_eq_true_eq, Bool.not_eq_true', decide_eq_false_iff_not]
  omega

theorem mergeByte_zero_mask (q : Int) (w : Byte) : mergeByte g m y q 0x00#8 w = m :=
  if_pos (.inr (.inr BitVec.zero_and))

/-- The second merge needs no case for `rshift = 0`: a mask shifted by 8 is empty. -/
theorem placeByte_eq :
    placeByte g x y n s m =
      mergeByte g (mergeByte g m y (x / 8) (0xFF#8 <<< (8 - n) >>> (x % 8).toNat) (s >>> (x % 8).toNat)) y (x / 8 + 1)
        (0xFF#8 <<< (8 - n) <<< (8 - (x % 8).toNat)) (s <<< (8 - (x % 8).toNat)) := by
  simp only [placeByte]
  split
  · rfl
  · next h => rw [BitVec.shiftLeft_eq_zero (n := 8 - (x % 8).toNat) (by omega), mergeByte_zero_mask]

section

variable (hm : Mem.wf m = true) (hg : g.Fits) (hn : n ≤ 8)
  (hv : ∀ c r : Nat, y = r → x ≤ c → c < x + n → columnBit s ((c : Int) - x).toNat = v c r)

include hm hg hn hv

theorem mergeByte_low_copies :
    g.Copies v (fun c r => c < g.w ∧ y = r ∧ x / 8 = ((c / 8 : Nat) : Int) ∧ x ≤ c ∧ c < x + n) m
      (mergeByte g m y (x / 8) (0xFF#8 <<< (8 - n) >>> (x % 8).toNat) (s >>> (x % 8).toNat)) := by
  refine mergeByte_copies hm hg (fun c r => ?_) fun c r hcr => ?_
  · rw [BitVec.getLsbD_ushiftRight, firstColumns_getLsbD hn, decide_eq_true_eq]
    omega
  · obtain ⟨-, hr, hbyte, hx0, hx1⟩ := hcr
    rw [← hv c r hr hx0 hx1, columnBit, columnBit, BitVec.getLsbD_ushiftRight]
    congr 2
    omega

theorem mergeByte_high_copies :
    g.Copies v (fun c r => c < g.w ∧ y = r ∧ x / 8 + 1 = ((c / 8 : Nat) : Int) ∧ c < x + n) m
      (mergeByte g m y (x / 8 + 1) (0xFF#8 <<< (8 - n) <<< (8 - (x % 8).toNat)) (s <<< (8 - (x % 8).toNat))) := by
  refine mergeByte_copies hm hg (fun c r => ?_) fun c r hcr => ?_
  · rw [BitVec.getLsbD_shiftLeft, firstColumns_getLsbD hn]
    simp only [Bool.and_eq_true, decide_eq_true_eq, Bool.not_eq_true', decide_eq_false_iff_not]
    omega
  · obtain ⟨-, hr, hbyte, hx1⟩ := hcr
    rw [← hv c r hr (by omega) hx1, columnBit, columnBit, BitVec.getLsbD_shiftLeft, decide_eq_true (by omega),
      decide_eq_false (by omega), Bool.not_false, Bool.true_and, Bool.true_and]
    congr 2
    omega

theorem placeByte_copies :
    g.Copies v (fun c r => c < g.w ∧ y = r ∧ x ≤ c ∧ c < x + n) m (placeByte g x y n s m) := by
  rw [placeByte_eq]
  have hlow := mergeByte_low_copies hm hg hn hv
  exact (hlow.trans (mergeByte_high_copies hlow.wf hg hn hv)).congr fun c r => by omega

end

/-! ### The whole bitmap -/

theorem blitByBytes_copies (hm : Mem.wf m = true) (hg : g.Fits) (x y : Int) (b : BitmapHeader) (data : List Byte) :
    g.Copies (bitmapBit x y b data) (g.BitmapRect x y b) m (blitByBytes g x y b data m) := by
  refine (Geom.Copies.foldl hm fun j _ m hm => Geom.Copies.foldl hm fun k _ m hm =>
    placeByte_copies hm hg (Nat.min_le_left ..) fun c r hr hx0 hx1 => ?_).congr fun c r => ?_
  · have hi : ((c : Int) - x).toNat = 8 * k + ((c : Int) - (x + 8 * k)).toNat := by omega
    have hj : ((r : Int) - y).toNat = j := by omega
    rw [bitmapBit, ofBool_sourcePixel, hi, hj]
    rw [Nat.mul_add_div (by omega), Nat.mul_add_mod, Nat.div_eq_of_lt (by omega),
      Nat.mod_eq_of_lt (by omega)]
    rfl
  · simp only [List.mem_range, Geom.BitmapRect]
    constructor
    · rintro ⟨j, hj, k, hk, hw, hr, hx0, hx1⟩
      omega
    · rintro ⟨hw, hx, hy⟩
      refine ⟨((r : Int) - y).toNat, by omega, (((c : Int) - x) / 8).toNat, ?_, hw, by omega, by omega, by omega⟩
      rw [BitmapHeader.rowBytes]
      omega

end

/-- Settles O59: both copy the same bits onto the same pixels. -/
theorem blitByteMethodEqualsPixelCopy : Obligations.BlitByteMethodEqualsPixelCopy := by
  intro g m x y b data hm hg
  exact (blitByBytes_copies hm hg x y b data).unique (plotAll_blit_copies hm hg x y b data)

end Sys2Proof.Machine
end

section
/-! The exceptions family, writes while BUSY = 1 (60 R222): which register writes are ignored, busy or not, and the write
of STATUS, which is taken and never raises OVERRUN. -/

namespace Sys2Proof.Machine

variable {s : State}

/-- The read-only registers and the reserved offsets: their writes are ignored, busy or not (60 R222). -/
def ignoredRegs : List Reg := [.result, .fbStride, .reserved]

theorem State.regWrite_ignored {r : Reg} (hr : r ∈ ignoredRegs) (v : Word) : s.regWrite r v = s := by
  cases r with
  | result | fbStride | reserved => rfl
  | cmd | arg0 | arg1 | arg2 | status | fbBase | fbWidth | fbHeight => simp [ignoredRegs] at hr

theorem State.regWrite_status (v : Word) : s.regWrite .status v = s.ackStatus v := rfl

theorem State.regWrite_status_keeps_overrun_clear (h : s.overrun = false) (v : Word) :
    (s.regWrite .status v).overrun = false := by
  rw [State.regWrite_status, State.ackStatus_overrun, h, Bool.false_and]

/-- Settles O48: a guarded register's write is dropped, STATUS is acknowledged, and the rest is ignored. -/
theorem busyWritesAreDropped : Obligations.BusyWritesAreDropped := by
  intro s v
  exact ⟨fun hb _ hr => State.regWrite_busy hb hr v, State.regWrite_status v,
    fun h => State.regWrite_status_keeps_overrun_clear h v, fun _ hr => State.regWrite_ignored hr v⟩

end Sys2Proof.Machine
end

section
/-! The reset and hazards family (spec/70_reset_and_hazards.md): reset, accesses of FBMEM from outside, an empty
framebuffer, and the reads a step delivers. -/

namespace Sys2Proof.Machine

section

variable {s t : State}

/-! ### Reset (70 R250 to R252) -/

theorem State.reset_regValue (r : Reg) : State.reset.regValue r = 0#32 := by
  cases r <;> decide

theorem State.resetRegs_regValue (s : State) (r : Reg) : s.resetRegs.regValue r = 0#32 := by
  have hreset : s.resetRegs.regValue r = State.reset.regValue r := by cases r <;> rfl
  rw [hreset, State.reset_regValue]

theorem State.reset_registers : windowRegs.map State.reset.regValue = List.replicate 10 0#32 :=
  List.map_eq_replicate_iff.2 fun r _ => State.reset_regValue r

theorem resetBlock_idle (hb : s.busy = false) : resetBlock s = .next s.resetRegs := by
  rw [resetBlock, if_neg (by simp [hb])]

theorem resetBlock_busy_valid (hb : s.busy = true) (hv : s.regionValid = true) :
    resetBlock s = .next s.scramble.resetRegs := by
  rw [resetBlock, if_pos hb, s.engineStep_valid hv]

theorem resetBlock_busy_invalid (hb : s.busy = true) (hv : s.regionValid = false) :
    resetBlock s = .fault .fbUnmapped := by
  rw [resetBlock, if_pos hb, s.engineStep_invalid hv]

theorem State.scramble_read_region (hm : Mem.wf s.fbmem = true) (hv : s.regionValid = true) {i : Nat}
    (hi : i < s.act.geom.bytes) : Mem.read s.scramble.fbmem (s.act.geom.base + i) = Config.freeByte (s.draws + i) := by
  obtain ⟨-, hinside, -⟩ :=
    State.rewritten_read hm (State.fits_of_valid hv) fun i => Config.freeByte (s.draws + i)
  exact hinside i hi

/-! ### FBMEM from outside (70 R256, R257) -/

theorem State.inBusyRegion_eq_true {a : Word} (hb : s.busy = true) (hr : s.act.geom.inRegion a.toNat = true) :
    s.inBusyRegion a = true := by
  rw [State.inBusyRegion, hb, hr, Bool.and_self]

theorem State.inBusyRegion_eq_false {a : Word} (h : s.busy = false ∨ s.act.geom.inRegion a.toNat = false) :
    s.inBusyRegion a = false := Bool.and_eq_false_iff.2 h

section

variable {a : Word}

theorem State.outsideRead_of_busyRegion (h : s.inBusyRegion a = true) :
    s.outsideByte a = Config.freeByte s.draws ∧ s.outsideDraws a = s.draws + 1 := ⟨if_pos h, if_pos h⟩

theorem State.outsideRead_of_memory (h : s.inBusyRegion a = false) :
    s.outsideByte a = Mem.read s.fbmem a.toNat ∧ s.outsideDraws a = s.draws := by
  simp [State.outsideByte, State.outsideDraws, h]

theorem hostFbRead_byte :
    hostFbRead a 8 s =
      .next { s with reads := s.reads ++ [.byte (s.outsideByte a)], draws := s.outsideDraws a } :=
  if_neg (not_not.2 rfl)

theorem hostFbWrite_busyRegion (h : s.inBusyRegion a = true) (v : Word) : hostFbWrite a 8 v s = .fault .hostRace := by
  rw [hostFbWrite, if_neg (not_not.2 rfl), if_pos h]

theorem hostFbWrite_memory (h : s.inBusyRegion a = false) (v : Word) :
    hostFbWrite a 8 v s = .next { s with fbmem := Mem.write s.fbmem a.toNat (v.setWidth 8) } := by
  rw [hostFbWrite, if_neg (not_not.2 rfl), if_neg (by simp [h])]

end

/-! ### An empty framebuffer (70 R253) -/

theorem Latch.geom_bytes_eq_zero {l : Latch} (hw : l.w = 0#15) : l.geom.bytes = 0 := by
  simp [Geom.bytes, Geom.stride, Latch.geom, hw]

/-- In an empty framebuffer a coordinate that is not negative is past its upper bound. -/
theorem Latch.geom_missesAbove_iff {l : Latch} (hw : l.w = 0#15) (hh : l.h = 0#15) (x y : Int) :
    l.geom.missesAbove x y = true ↔ 0 ≤ x ∨ 0 ≤ y := by
  simp [Geom.missesAbove_iff, Latch.geom, hw, hh]

/-! ### The reads a step delivers (70 R262) -/

/-- The values the host gets from a move of the outside. -/
def State.readsOf (s : State) : Input → List ReadValue
  | .regRead addr bits =>
    match regAccess s.platform addr bits with
    | .ok r => [.reg (s.regValue r)]
    | .error _ => []
  | .wait => [.reg (s.regValue .status)]
  | .fbRead a _ => [.byte (s.outsideByte a)]
  | _ => []

theorem State.outsideView_readsOf (s : State) (rest : List Input) (i : Input) :
    (s.outsideView rest).readsOf i = s.readsOf i := by
  cases i <;> rfl

theorem State.regWrite_reads (s : State) (r : Reg) (v : Word) : (s.regWrite r v).reads = s.reads := by
  obtain h | h | ⟨-, -, h⟩ | ⟨-, -, -, h⟩ | ⟨-, -, -, i, h⟩ | ⟨-, _, _, _, _, _, _, h⟩ :=
    s.regWrite_cases r v <;> rw [h] <;> rfl

theorem exec_reads {i : Instr} (h : exec i s = .next t) : t.reads = s.reads := by
  obtain ⟨fb, res, d, rfl, -⟩ := exec_frame h
  rfl

theorem outsideStep_reads {i : Input} (h : outsideStep i s = .next t) : t.reads = s.reads ++ s.readsOf i := by
  obtain ⟨addr, r, rfl, hr, rfl⟩ | ⟨_, r, v, rfl, -, rfl⟩ | ⟨rfl, rfl⟩ | ⟨a, rfl, rfl⟩ | ⟨a, v, rfl, -, rfl⟩ |
    ⟨a, rfl, rfl⟩ | ⟨rfl, -, rfl⟩ | ⟨rfl, -, -, rfl⟩ := outsideStep_cases h
  · rw [State.readsOf, hr, State.deliver_reads]
  · rw [State.regWrite_reads]
    exact (List.append_nil _).symm
  · rfl
  · rfl
  all_goals exact (List.append_nil _).symm

/-- A launch has ended exactly when its program is empty, BUSY being 0 in the state it starts from. -/
theorem State.launchFrom_ended_iff (hb : s.busy = false) (p : Platform) (fb src : Mem) (program : List Input)
    (turns : List Mover) : (s.launchFrom p fb src program turns).ended = true ↔ program = [] := by
  simp [State.ended, hb]

theorem step_of_ended (h : s.ended = true) : step s = .next s := by
  obtain ⟨hi, hb⟩ : s.inputs = [] ∧ s.busy = false := by simpa [State.ended] using h
  exact step_of_idle hb hi

end

/-- Settles O49: what either access does in the busy region, and what it does elsewhere. -/
theorem hostAccessOfBusyRegion : Obligations.HostAccessOfBusyRegion := by
  intro s a v hwf
  obtain ⟨hm, -⟩ := s.memoriesWf_iff.1 hwf
  refine ⟨fun hb hr => ?_, fun h => ?_⟩
  · have hregion := State.inBusyRegion_eq_true hb hr
    obtain ⟨hbyte, hdraws⟩ := State.outsideRead_of_busyRegion hregion
    exact ⟨hostFbWrite_busyRegion hregion v, by rw [hostFbRead_byte, hbyte, hdraws]⟩
  · have hmemory := State.inBusyRegion_eq_false h
    obtain ⟨hbyte, hdraws⟩ := State.outsideRead_of_memory hmemory
    exact ⟨by rw [hostFbRead_byte, hbyte, hdraws], _, hostFbWrite_memory hmemory v, rfl, Mem.read_write hm a.isLt _⟩

/-- Settles O52: the region is rewritten by free bytes, and then the registers are cleared. -/
theorem busyResetFreesTheRegion : Obligations.BusyResetFreesTheRegion := by
  intro s hb hwf
  obtain ⟨hm, -⟩ := s.memoriesWf_iff.1 hwf
  refine ⟨resetBlock_busy_invalid hb, fun hv => ⟨_, resetBlock_busy_valid hb hv, State.resetRegs_regValue _, rfl, ?_⟩⟩
  exact ⟨fun i hi => State.scramble_read_region hm hv hi, fun a ha => State.scramble_read_outside hm hv ha, rfl⟩

/-- Settles O53: an empty region passes its check and holds no byte, and only two negative coordinates miss no bound. -/
theorem emptyFramebufferCommandsTouchNothing : Obligations.EmptyFramebufferCommandsTouchNothing := by
  intro i s hw hh
  have hbytes := Latch.geom_bytes_eq_zero hw
  have hv := State.regionValid_of_empty hbytes
  have hmiss := Latch.geom_missesAbove_iff hw hh s.act.coord0 s.act.coord1
  obtain ⟨-, hempty⟩ := invalidRegionFaults i s
  obtain ⟨hmapped, -⟩ := hempty hbytes
  refine ⟨hmapped, fun hi => exec_completes hv fun hbitmap => absurd hbitmap hi,
    fun t h => ⟨exec_fbmem_of_empty hbytes h, ?_, ?_⟩⟩
  · rintro rfl hzero
    rw [exec_getPixel_next h]
    by_cases hup : 0 ≤ s.act.coord0 ∨ 0 ≤ s.act.coord1
    · exact (State.pixelResult_of_missesAbove (hmiss.2 hup)).1
    · have hharden : s.platform.negRead = .harden := by tauto
      exact (State.pixelResult_of_negative_harden (by omega) hharden).1
  · rintro rfl hx hy hdraw
    rw [exec_getPixel_next h]
    have hbelow : s.act.geom.missesAbove s.act.coord0 s.act.coord1 = false := by
      rw [← Bool.not_eq_true, hmiss]
      omega
    exact State.pixelResult_of_drawsBit ((s.drawsBit_iff ..).2 ⟨hbelow, .inl hx, hdraw⟩)

/-- Settles O60: a launch sets only what is not a register, and a step delivers what its move of the outside reads. -/
theorem launchedRunsDeliverTheirReads : Obligations.LaunchedRunsDeliverTheirReads := by
  refine ⟨fun s p fb src program turns hb =>
    ⟨rfl, State.launchFrom_ended_iff hb .., ⟨.reset, p, fb, src, program, turns, rfl, rfl⟩,
      congrArg (Observation.mk fb · []) State.reset_registers⟩, fun s t h => ?_, fun s => step_of_ended⟩
  obtain ⟨hmove, rfl⟩ | ⟨hmove, hexec⟩ | ⟨i, rest, hmove, hout⟩ := step_cases h <;> rw [hmove]
  · exact (List.append_nil _).symm
  · rw [exec_reads hexec]
    exact (List.append_nil _).symm
  · rw [outsideStep_reads hout, State.outsideView_readsOf]
    cases i <;> rfl

/-- Settles O39: each register of the reset state is 0, and with BUSY = 0 the latch need follow nothing. -/
theorem resetMeetsTheInvariants : Obligations.ResetMeetsTheInvariants :=
  ⟨rfl, State.latchFollows_of_idle rfl, rfl, State.reset_regValue, rfl, rfl⟩

/-- Settles O50: the byte of an outside read, and the free value it may draw, are all a scanout read adds. -/
theorem scanoutReadChangesNothing : Obligations.ScanoutReadChangesNothing := by
  intro s a
  refine ⟨fun hb hr => ?_, fun h => ?_⟩
  · obtain ⟨hbyte, hdraws⟩ := State.outsideRead_of_busyRegion (State.inBusyRegion_eq_true hb hr)
    rw [scanoutRead, hbyte, hdraws]
  · obtain ⟨hbyte, hdraws⟩ := State.outsideRead_of_memory (State.inBusyRegion_eq_false h)
    rw [scanoutRead, hbyte, hdraws]

/-- Settles O51: without a command in progress reset clears the registers and no more. -/
theorem idleResetClearsOnlyRegisters : Obligations.IdleResetClearsOnlyRegisters := by
  intro s hb
  exact ⟨_, resetBlock_idle hb, s.resetRegs_regValue, rfl, rfl, rfl, rfl, rfl, rfl, rfl, rfl, rfl⟩

end Sys2Proof.Machine
end
